-- ==== Sys2Proof/Word.lean ====
section
/-!
DEFINITION. The plain word types of the block: bytes, the 16-bit and 32-bit payload fields, frames and texts.
-/

namespace Sys2Proof

/-- A byte, an unsigned integer 0..255 with bit 0 least significant (R8). -/
abbrev Byte := BitVec 8

/-- A 16-bit payload field as the frame carries it, not yet signed (R10, R44). -/
abbrev Half := BitVec 16

/-- A 32-bit payload field as the frame carries it, not yet signed (R10, R44). -/
abbrev Word := BitVec 32

/-- A frame as its bytes in arrival order, byte 0 first (R8). Its length is checked, not typed: the
validator's first check is the length (R85). -/
abbrev Frame := List Byte

/-- A string of ASCII characters, each identified with its code (R13). -/
abbrev Text := List Byte

end Sys2Proof
end

