-- ==== Sys2Proof/Syntax.lean ====
section
/-!
DEFINITION. The instruction set: the ten frame types of spec/opcode_table.json with their raw payload fields, and the
results of validating a frame.
-/

namespace Sys2Proof

/-- One frame type per row of the opcode table (R58), its operands the payload fields of R60 in offset
order, unused fields included (R63). -/
inductive Instr where
  /-- TIME, tag 0x50 (R88). -/
  | time (t0 t1 t2 t3 : Half)
  /-- ACC, tag 0x51 (R89). -/
  | acc (rax ray raz rtemp : Half)
  /-- GYRO, tag 0x52 (R90). -/
  | gyro (rwx rwy rwz rg4 : Half)
  /-- ANGLE, tag 0x53 (R91). -/
  | angle (rroll rpitch ryaw ra4 : Half)
  /-- MAG, tag 0x54 (R92). -/
  | mag (rmx rmy rmz rm4 : Half)
  /-- BARO, tag 0x55 (R93). -/
  | baro (rpress : Word) (ralt rb4 : Half)
  /-- LONLAT, tag 0x57 (R94). -/
  | lonlat (rlon rlat : Word)
  /-- GPSV, tag 0x58 (R95). -/
  | gpsv (rgalt rgvel rghdg rv4 : Half)
  /-- QUAT, tag 0x59 (R96). -/
  | quat (rq0 rq1 rq2 rq3 : Half)
  /-- GPSACC, tag 0x5A (R97). -/
  | gpsacc (rsats rpdop rhdop rvdop : Half)
  deriving DecidableEq, Repr

/-- The four error kinds of R150. -/
inductive DecodeError where
  | framingError
  | checksumMismatch
  | unknownPacketType
  /-- Listed by the source and produced by no frame (R98). -/
  | conversionError
  deriving DecidableEq, Repr

/-- A verdict: `OK` or one of the error kinds (R32, R150). -/
inductive Verdict where
  | ok
  | error (e : DecodeError)
  deriving DecidableEq, Repr

end Sys2Proof
end

