-- ==== Sys2Proof/WellFormed.lean ====
section
/-!
DEFINITION. What a well-formed frame is (R55, R57, R58), said without the decoder; that the decoder accepts exactly these
is one of the obligations. A term of `Instr` has no ill-formed values: its fields have the widths of R60 and every payload
is accepted (R63, R98).
-/

namespace Sys2Proof

/-- "Every frame is exactly 11 bytes" (R55). -/
def Frame.lengthOk (f : Frame) : Bool := f.length == 11

/-- Byte 0 is the header 0x55 (R55, R56). -/
def Frame.headerOk (f : Frame) : Bool := f[0]? == some 0x55#8

/-- Byte 10 is the sum of bytes 0..9 modulo 256, as unsigned integers (R57). -/
def Frame.checksumOk (f : Frame) : Bool :=
  (f[10]?.map BitVec.toNat) == some (((f.take 10).map BitVec.toNat).sum % 256)

/-- The tag, byte 1, is one of the ten recognised values (R6 `TAGS`, R58). -/
def Frame.tagOk (f : Frame) : Bool :=
  match f[1]? with
  | none => false
  | some t => (0x50 ≤ t.toNat && t.toNat ≤ 0x55) || (0x57 ≤ t.toNat && t.toNat ≤ 0x5A)

/-- A frame every check of R85 passes. -/
def Frame.wellFormed (f : Frame) : Bool := f.lengthOk && f.headerOk && f.checksumOk && f.tagOk

end Sys2Proof
end

