-- ==== Sys2Proof/Decode.lean ====
section
/-!
DEFINITION. The frame validator and decoder (R85 to R87), total on any list of bytes, and the encoder written from the same
layouts (R55, R60, R68). After them, the reading of an opcode-table word as a frame.
-/

namespace Sys2Proof

/-- The header sentinel (R56). -/
def header : Byte := 0x55#8

/-- Byte `o` of a frame; the decoder reads it only at offsets inside an 11-byte frame. -/
def byteAt (f : Frame) (o : Nat) : Byte := f.getD o 0#8

/-- Two bytes as a 16-bit field, the low byte given first (R41). -/
def joinBytes (lo hi : Byte) : Half := hi ++ lo

/-- Two 16-bit halves as a 32-bit field, the low half given first (R41). -/
def joinHalves (lo hi : Half) : Word := hi ++ lo

/-- The 16-bit field at offset `o`, little-endian (R10, R41). -/
def u16le (f : Frame) (o : Nat) : Half := joinBytes (byteAt f o) (byteAt f (o + 1))

/-- The 32-bit field at offset `o`, little-endian (R10, R41). -/
def u32le (f : Frame) (o : Nat) : Word := joinHalves (u16le f o) (u16le f (o + 2))

/-- The frame checksum function: the sum of bytes 0..9 modulo 256 (R57). -/
def ck (f : Frame) : Byte := (f.take 10).sum

/-- Tag dispatch with the payload layouts (R58, R60, R87). -/
def decodeTag (f : Frame) : Option Instr :=
  match byteAt f 1 with
  | 0x50#8 => some (.time (u16le f 2) (u16le f 4) (u16le f 6) (u16le f 8))
  | 0x51#8 => some (.acc (u16le f 2) (u16le f 4) (u16le f 6) (u16le f 8))
  | 0x52#8 => some (.gyro (u16le f 2) (u16le f 4) (u16le f 6) (u16le f 8))
  | 0x53#8 => some (.angle (u16le f 2) (u16le f 4) (u16le f 6) (u16le f 8))
  | 0x54#8 => some (.mag (u16le f 2) (u16le f 4) (u16le f 6) (u16le f 8))
  | 0x55#8 => some (.baro (u32le f 2) (u16le f 6) (u16le f 8))
  | 0x57#8 => some (.lonlat (u32le f 2) (u32le f 6))
  | 0x58#8 => some (.gpsv (u16le f 2) (u16le f 4) (u16le f 6) (u16le f 8))
  | 0x59#8 => some (.quat (u16le f 2) (u16le f 4) (u16le f 6) (u16le f 8))
  | 0x5A#8 => some (.gpsacc (u16le f 2) (u16le f 4) (u16le f 6) (u16le f 8))
  | _ => none

/-- The checks of R85 in their order: framing, checksum, tag; the first that fails names the error (R152). -/
def decodeFrame (f : Frame) : Except DecodeError Instr :=
  if f.length ≠ 11 ∨ byteAt f 0 ≠ header then .error .framingError
  else if byteAt f 10 ≠ ck f then .error .checksumMismatch
  else
    match decodeTag f with
    | none => .error .unknownPacketType
    | some i => .ok i

/-- The two bytes of a 16-bit field, low byte first (R41, R68). -/
def halfBytes (x : Half) : List Byte := [x.extractLsb' 0 8, x.extractLsb' 8 8]

/-- The four bytes of a 32-bit field, low byte first (R41, R68). -/
def wordBytes (x : Word) : List Byte :=
  [x.extractLsb' 0 8, x.extractLsb' 8 8, x.extractLsb' 16 8, x.extractLsb' 24 8]

/-- `FRAME(tag; payload)` of R68: header, tag, payload and the checksum of those ten bytes. -/
def sealFrame (tag : Byte) (payload : List Byte) : Frame :=
  let body := header :: tag :: payload
  body ++ [ck body]

/-- Four 16-bit fields at offsets 2, 4, 6, 8 (R60). -/
def fourHalves (a b c d : Half) : List Byte :=
  halfBytes a ++ halfBytes b ++ halfBytes c ++ halfBytes d

/-- The frame of an instruction, by the layouts of R60 (R68). -/
def encode (i : Instr) : Frame :=
  match i with
  | .time t0 t1 t2 t3 => sealFrame 0x50#8 (fourHalves t0 t1 t2 t3)
  | .acc rax ray raz rtemp => sealFrame 0x51#8 (fourHalves rax ray raz rtemp)
  | .gyro rwx rwy rwz rg4 => sealFrame 0x52#8 (fourHalves rwx rwy rwz rg4)
  | .angle rroll rpitch ryaw ra4 => sealFrame 0x53#8 (fourHalves rroll rpitch ryaw ra4)
  | .mag rmx rmy rmz rm4 => sealFrame 0x54#8 (fourHalves rmx rmy rmz rm4)
  | .baro rpress ralt rb4 => sealFrame 0x55#8 (wordBytes rpress ++ halfBytes ralt ++ halfBytes rb4)
  | .lonlat rlon rlat => sealFrame 0x57#8 (wordBytes rlon ++ wordBytes rlat)
  | .gpsv rgalt rgvel rghdg rv4 => sealFrame 0x58#8 (fourHalves rgalt rgvel rghdg rv4)
  | .quat rq0 rq1 rq2 rq3 => sealFrame 0x59#8 (fourHalves rq0 rq1 rq2 rq3)
  | .gpsacc rsats rpdop rhdop rvdop => sealFrame 0x5A#8 (fourHalves rsats rpdop rhdop rvdop)

/-- Byte `k` of the payload in an opcode-table word: the bits from 16 + 8k on. -/
def tablePayloadByte (w k : Nat) : Byte := BitVec.ofNat 8 (w >>> (16 + 8 * k))

/-- The frame an opcode-table word stands for (log 14). The table's key is K(f) = f[0] * 256 + f[1] (R58), so
bits 15..8 are the header and bits 7..0 the tag; the payload bytes follow from bit 16
and the checksum would be bits 87..80. Bits from `nbits` on are zero. A word that does not reach
the checksum (at most ten bytes) gets the checksum of its ten bytes, as R68's FRAME form does: the checksum
is no operand and a frame without it is no frame of the row. -/
def tableFrame (nbits w : Nat) : Frame :=
  let v := w % 2 ^ nbits
  let body : Frame :=
    BitVec.ofNat 8 (v >>> 8) :: BitVec.ofNat 8 v :: (List.range 8).map (tablePayloadByte v)
  body ++ [if nbits ≤ 80 then ck body else tablePayloadByte v 8]

/-- The instruction the decoder reads from an opcode-table word, if it reads one. -/
def decodeTableWord (nbits w : Nat) : Option Instr :=
  match decodeFrame (tableFrame nbits w) with
  | .ok i => some i
  | .error _ => none

end Sys2Proof
end

