-- ==== Sys2Proof/Config.lean ====
section
/-!
DEFINITION. The implementation parameters of R6 (NUMERIC, LATLON_MODE, FMT_DECIMALS) and the model's one free value.
The fixed constants of R6 stand with the rules that use them (Decode, Machine/Operands, Machine/Sentences).
-/

namespace Sys2Proof

/-- NUMERIC (R6, R9): the domain of converted values. -/
inductive Numeric where
  | exact
  | binary64
  deriving DecidableEq, Repr

/-- LATLON_MODE (R6, R29, R94): the reading of the 0x57 fields. -/
inductive LatLonMode where
  | ddm
  | degE7
  deriving DecidableEq, Repr

/-- FMT_DECIMALS (R6, R118): one decimal count for each row of R118's table, in its order (log 13). -/
structure Decimals where
  dop : Nat
  gpsAlt : Nat
  speed : Nat
  track : Nat
  variation : Nat
  heading : Nat
  rateOfTurn : Nat
  attitude : Nat
  pressure : Nat
  temp : Nat
  accel : Nat
  minutes : Nat
  deriving DecidableEq, Repr

/-- The default decimal counts, R118's table. -/
def Decimals.default : Decimals :=
  { dop := 2, gpsAlt := 1, speed := 1, track := 1, variation := 1, heading := 1, rateOfTurn := 1,
    attitude := 1, pressure := 5, temp := 2, accel := 2, minutes := 4 }

/-- The three rows of R6 marked "parameter", which a model takes as arguments. -/
structure Params where
  numeric : Numeric
  latLon : LatLonMode
  decimals : Decimals
  deriving DecidableEq, Repr

/-- The default parameters of R6. -/
def Params.default : Params :=
  { numeric := .exact, latLon := .ddm, decimals := .default }

/-- FREE VALUE (DESIGN CHOICE, log 9): what an operation under NUMERIC = BINARY64 gives when its result,
rounded, is larger than every finite binary64 number. The spec states no result there. -/
opaque Config.binary64Overflow (x : Rat) : Rat

end Sys2Proof
end

