-- ==== Sys2Proof/Machine/State.lean ====
section
/-!
DEFINITION. The state of the block (R20 to R36), its inputs and per-step outputs as the model carries them, the reasons a
step can stop, and the state after reset.
-/

namespace Sys2Proof.Machine

/-- A day of the month, 1..31 (R30). -/
abbrev Day := { n : Nat // 1 ≤ n ∧ n ≤ 31 }

/-- A month, 1..12 (R30). -/
abbrev Month := { n : Nat // 1 ≤ n ∧ n ≤ 12 }

/-- The host time input of R30. The ranges are in the type, as U14 asks: an out-of-range time cannot be
written down (log 6). -/
structure HostTime where
  hh : Fin 24
  mi : Fin 60
  ss : Fin 61
  cs : Fin 100
  dd : Day
  mo : Month
  yy : Fin 100
  deriving DecidableEq, Repr

/-- The host's moves (R159). -/
inductive HostOp where
  /-- Deliver the next byte of the stream: one block step. -/
  | deliver (b : Byte)
  /-- Write the declination register (R160). -/
  | setDecl (d : Rat)
  /-- Change the host time input (R30). -/
  | setTime (t : HostTime)
  /-- Take the first `k` lines of `out`. -/
  | drain (k : Nat)
  /-- Reset the block (R170). -/
  | reset
  deriving DecidableEq, Repr

/-- The sensor state aggregate: the fields of R24's table, in its order, and the sign of a yaw of zero (R91). The
rule's text counts 27 fields; its table names 28 (log 17). -/
structure Agg where
  ax : Rat
  ay : Rat
  az : Rat
  temp : Rat
  wx : Rat
  wy : Rat
  wz : Rat
  roll : Rat
  pitch : Rat
  yaw : Rat
  /-- Is `yaw` the −0.0 that R91 gives for a raw yaw of 0 in `BINARY64`? No other field is ever −0.0 (log 10). -/
  yawMinusZero : Bool
  mx : Int
  my : Int
  mz : Int
  pressure : Rat
  baroAlt : Rat
  lon : Rat
  lat : Rat
  gpsAlt : Rat
  gpsVel : Rat
  gpsHdg : Rat
  q0 : Rat
  q1 : Rat
  q2 : Rat
  q3 : Rat
  sats : Int
  pdop : Rat
  hdop : Rat
  vdop : Rat
  deriving DecidableEq, Repr

/-- Every aggregate field at its reset value 0 (R24, R36). -/
def Agg.zero : Agg :=
  { ax := 0, ay := 0, az := 0, temp := 0, wx := 0, wy := 0, wz := 0, roll := 0, pitch := 0, yaw := 0,
    yawMinusZero := false, mx := 0, my := 0, mz := 0, pressure := 0, baroAlt := 0, lon := 0, lat := 0, gpsAlt := 0, gpsVel := 0,
    gpsHdg := 0, q0 := 0, q1 := 0, q2 := 0, q3 := 0, sats := 0, pdop := 0, hdop := 0, vdop := 0 }

/-- The state. The first six fields are the spec's tuple S (R20); the next two are the block's inputs, the next
two its per-step outputs, the last its parameters, which the spec names and a step without arguments has to
find here (log 1, 2, 4). -/
structure State where
  /-- The synchronized flag (R23). -/
  sync : Bool
  /-- The accumulation buffer (R22). -/
  buf : List Byte
  /-- The sensor state aggregate (R24). -/
  agg : Agg
  /-- The time-sync timestamp register, `none` for NONE (R27). -/
  ts : Option HostTime
  /-- The magnetic declination register, degrees east (R28). -/
  decl : Rat
  /-- The sentence output sequence, each line with its CR LF (R33). -/
  out : List Text
  /-- The host time input as the host last set it (R30). -/
  now : HostTime
  /-- The host operations still to come, the next one first (R159, R50). -/
  input : List HostOp
  /-- The verdict output of the last step (R32). -/
  verdict : Option Verdict
  /-- The candidate-frame output of the last step (R34). -/
  candidate : Option Frame
  /-- The implementation parameters, fixed for the life of the model (R6, R29, R35). -/
  params : Params
  deriving DecidableEq, Repr

/-- Why the block stops by itself: it never does ("Fatal conditions. The block has none", R155), so no fault
exists and nothing raises one. -/
inductive Fault where
  deriving DecidableEq, Repr

/-- Why the model refuses to go on. -/
inductive Refusal where
  /-- An instruction without a meaning, named by its mnemonic. Raised by an arm of `exec` only; no arm of this
  model raises it. Safe. -/
  | notModelled (mnemonic : String)
  /-- The host asks to drain `k` lines while `out` holds fewer: no operation of R159, whose DRAIN(k) has
  `k ≤ len(out)` (log 7). Raised by the host operation DRAIN only. Safe. -/
  | drainBeyondOutput (k held : Nat)
  deriving DecidableEq, Repr

/-- The host time at `State.reset` (DESIGN CHOICE, log 5): the time input has no reset value (R30, R36). -/
def HostTime.initial : HostTime :=
  { hh := 0, mi := 0, ss := 0, cs := 0, dd := ⟨1, by decide⟩, mo := ⟨1, by decide⟩, yy := 0 }

/-- The machine right after reset at power-up: R36 for the spec's own state, no host operation asked for, no
output of a step, and the default parameters of R6. -/
def State.reset : State :=
  { sync := false, buf := [], agg := .zero, ts := none, decl := 0, out := [], now := .initial,
    input := [], verdict := none, candidate := none, params := .default }

end Sys2Proof.Machine
end

