-- ==== Sys2Proof/Machine/Flags.lean ====
section
/-!
DEFINITION. The conditions the block tests. Its one flag is `sync` (R23); the others are predicates over the aggregate:
the governing quantities (R125) and the fix status (R127).
-/

namespace Sys2Proof.Machine

/-- `gps_on`: the position is not exactly zero; governs GPGGA, GPRMC and GPGSA (R125). -/
def gpsOn (a : Agg) : Bool := !(decide (a.lat = 0) && decide (a.lon = 0))

/-- `vtg_on`: the velocity is not exactly zero; governs GPVTG (R125). -/
def vtgOn (a : Agg) : Bool := !decide (a.gpsVel = 0)

/-- `valid`: the satellite count is not zero (R127). -/
def fixValid (a : Agg) : Bool := !decide (a.sats = 0)

end Sys2Proof.Machine
end

