-- ==== Sys2Proof/Machine/Numeric.lean ====
section
/-!
DEFINITION. The arithmetic of the two numeric domains (R9, R6 NUMERIC): exact rationals, and binary64 with every operation
rounded to nearest, ties to even.
-/

namespace Sys2Proof.Machine

/-- `|x|` (R9). -/
def qabs (x : Rat) : Rat := if x < 0 then -x else x

/-- The nearest integer, a tie to the even one (R115). -/
def roundHalfEven (x : Rat) : Int :=
  let n := x.floor
  let r := x - n
  if r < 1 / 2 then n
  else if 1 / 2 < r then n + 1
  else if n % 2 = 0 then n else n + 1

/-- The power 2^e as a rational. -/
def pow2 (e : Int) : Rat :=
  match e with
  | .ofNat n => mkRat (2 ^ n) 1
  | .negSucc n => mkRat 1 (2 ^ (n + 1))

/-- The exponent e of a positive x: 2^e ≤ x < 2^(e+1). -/
def binExponent (x : Rat) : Int :=
  let e : Int := (x.num.natAbs.log2 : Int) - (x.den.log2 : Int)
  if pow2 e ≤ x then e else e - 1

/-- The weight of the last significand bit of a positive x in binary64: 53 significant bits, never below the
smallest subnormal. -/
def ulpExponent (x : Rat) : Int := max (binExponent x - 52) (-1074)

/-- A rational rounded to binary64, to nearest, ties to even (R9, D3, I8). The sign of a zero is `minusZero`'s; a
result beyond the largest finite number is a free value (log 9). -/
def roundBinary64 (x : Rat) : Rat :=
  if x = 0 then 0
  else
    let u := ulpExponent (qabs x)
    let y := roundHalfEven (qabs x / pow2 u) * pow2 u
    if y < pow2 1024 then (if x < 0 then -y else y) else Config.binary64Overflow x

/-- A result brought into the numeric domain: itself in `EXACT`, rounded in `BINARY64` (R9, D3). -/
def rounded (m : Numeric) (x : Rat) : Rat :=
  match m with
  | .exact => x
  | .binary64 => roundBinary64 x

/-- A constant of the spec's text as the domain holds it (log 8). -/
def litN (m : Numeric) (x : Rat) : Rat := rounded m x

/-- One addition in the domain. -/
def addN (m : Numeric) (x y : Rat) : Rat := rounded m (x + y)

/-- One subtraction in the domain. -/
def subN (m : Numeric) (x y : Rat) : Rat := rounded m (x - y)

/-- One multiplication in the domain. -/
def mulN (m : Numeric) (x y : Rat) : Rat := rounded m (x * y)

/-- One division in the domain; the block never divides by zero (R98). -/
def divN (m : Numeric) (x y : Rat) : Rat := rounded m (x / y)

/-- The floored modulo of R9: the one r with 0 ≤ r < y for which x − r is a multiple of y. R9 defines it without
rounding, and no rounded value could keep its bound in every case, so it is exact in both domains (log 11). -/
def floorMod (x y : Rat) : Rat := x - y * (x / y).floor

/-- Is the negation of `x` the negative zero of `BINARY64` (R91)? -/
def minusZero (m : Numeric) (x : Rat) : Bool := decide (m = .binary64 ∧ x = 0)

end Sys2Proof.Machine
end

