-- ==== Sys2Proof/Machine/Operands.lean ====
section
/-!
DEFINITION. The operand forms: raw payload fields as signed integers (R10, R61) and their conversion to physical values (R62,
R88 to R97), each written in the operation order its rule gives.
-/

namespace Sys2Proof.Machine

/-- A 16-bit field read with `sext_16` (R10, R61). -/
def s16 (r : Half) : Int := r.toInt

/-- A 32-bit field read with `sext_32` (R10, R61). -/
def s32 (r : Word) : Int := r.toInt

/-- `G`, 9.8 m/s² per g (R6, R7). -/
def gravity : Rat := 49 / 5

/-- `VEL_LIMIT`, 200 m/s (R6). -/
def velLimit : Rat := 200

/-- Acceleration: `r / 32768 × 16 × G` (R89). -/
def accelOf (m : Numeric) (r : Half) : Rat :=
  mulN m (mulN m (divN m (s16 r) 32768) 16) (litN m gravity)

/-- Angular velocity: `r / 32768 × 2000` (R90). -/
def gyroOf (m : Numeric) (r : Half) : Rat := mulN m (divN m (s16 r) 32768) 2000

/-- Angle: `r / 32768 × 180` (R91). -/
def angleOf (m : Numeric) (r : Half) : Rat := mulN m (divN m (s16 r) 32768) 180

/-- Quaternion component: `r / 32768` (R96). -/
def quatOf (m : Numeric) (r : Half) : Rat := divN m (s16 r) 32768

/-- Tenths: `r / 10` (R95). -/
def tenths (m : Numeric) (r : Int) : Rat := divN m r 10

/-- Hundredths: `r / 100` (R89 temperature, R93, R97). -/
def hundredths (m : Numeric) (r : Int) : Rat := divN m r 100

/-- The velocity clamp on the converted value, a strict test (R95, D36). -/
def clampVelocity (v : Rat) : Rat := if velLimit < qabs v then 0 else v

/-- `geo(r)` of R94: DDM reads degrees and minutes packed as DDD.MMMMMM, DEG_E7 reads degrees × 10^7. -/
def geo (p : Params) (r : Int) : Rat :=
  match p.latLon with
  | .ddm =>
    let m := p.numeric
    let a := divN m (qabs r) 10000000
    let d : Rat := a.floor
    let mins := mulN m (subN m a d) 100
    let x := addN m d (divN m mins 60)
    if r < 0 then -x else x
  | .degE7 => divN p.numeric r 10000000

end Sys2Proof.Machine
end

