-- ==== Sys2Proof/Machine/Text.lean ====
section
/-!
DEFINITION. Numbers to text (R13, R115 to R117) and the sentence line with its checksum (R111 to R113).
-/

namespace Sys2Proof.Machine

/-- The codes of an ASCII string (R13). -/
def ascii (s : String) : Text := s.toList.map fun c => BitVec.ofNat 8 c.toNat

/-- The character of a decimal digit 0..9. -/
def digitChar (d : Nat) : Byte := BitVec.ofNat 8 (0x30 + d)

/-- The decimal digits of `n` put before `acc`; `fuel` bounds their count. -/
def digitsOnto : Nat → Nat → Text → Text
  | 0, _, acc => acc
  | fuel + 1, n, acc =>
    if n < 10 then digitChar n :: acc else digitsOnto fuel (n / 10) (digitChar (n % 10) :: acc)

/-- `str(n)`: the shortest decimal spelling (R13). A number has no more decimal digits than binary ones. -/
def str (n : Nat) : Text := digitsOnto (n.log2 + 1) n []

/-- "0" characters put in front until the text has at least `w` characters. -/
def padZero (w : Nat) (t : Text) : Text := List.replicate (w - t.length) 0x30#8 ++ t

/-- The sign in front of a number: "-" when it is negative, nothing otherwise. -/
def signOf (negative : Prop) [Decidable negative] : Text := if negative then [0x2D#8] else []

/-- `fix(x, k)`: fixed point with `k` decimals, rounded half to even on the exact value, the sign from `x`
itself (R115). -/
def fix (x : Rat) (k : Nat) : Text :=
  let n := (roundHalfEven (qabs x * 10 ^ k)).toNat
  let s := padZero (k + 1) (str n)
  signOf (x < 0) ++ (if k = 0 then s else s.take (s.length - k) ++ [0x2E#8] ++ s.drop (s.length - k))

/-- `zpad(n, w)`: zeros inserted after the sign up to `w` characters in all (R116). -/
def zpad (n : Int) (w : Nat) : Text :=
  signOf (n < 0) ++ padZero (w - (signOf (n < 0)).length) (str n.natAbs)

/-- `fixw(x, k, w)`: `fix` padded with zeros to `w` characters (R117). -/
def fixw (x : Rat) (k w : Nat) : Text := padZero w (fix x k)

/-- One hexadecimal digit 0..15, uppercase (R13). -/
def hexDigit (d : Nat) : Byte := if d < 10 then digitChar d else BitVec.ofNat 8 (0x37 + d)

/-- `hex2(n)`: high nibble, then low nibble (R13). -/
def hex2 (b : Byte) : Text := [hexDigit (b.toNat / 16), hexDigit (b.toNat % 16)]

/-- `nmea_cs(B)`: the exclusive-or of the body's characters, 0 for an empty body (R111). -/
def nmeaCs (body : Text) : Byte := body.foldl (· ^^^ ·) 0#8

/-- `join(",", items)` (R13). -/
def joinComma : List Text → Text
  | [] => []
  | [t] => t
  | t :: rest => t ++ 0x2C#8 :: joinComma rest

/-- A sentence body: the identifier and the fields, joined by commas (R112). -/
def sentenceBody (ident : String) (fields : List Text) : Text := joinComma (ascii ident :: fields)

/-- `line(B)`: "$", the body, "*", the checksum in hexadecimal, CR LF (R113). -/
def sentenceLine (body : Text) : Text :=
  0x24#8 :: (body ++ (0x2A#8 :: hex2 (nmeaCs body)) ++ [0x0D#8, 0x0A#8])

end Sys2Proof.Machine
end

