-- ==== Sys2Proof/Machine/Sentences.lean ====
section
/-!
DEFINITION. The sentence generator (R110): position and time fields (R119, R120), derived quantities (R121 to R124), one body
per sentence kind (R126 to R137), and the generation in its order (R138).
-/

namespace Sys2Proof.Machine

/-- `KNOTS_PER_MPS`, 1.94384 (R6, R7). -/
def knotsPerMps : Rat := 194384 / 100000

/-- `KMH_PER_MPS`, 3.6 (R6, R7). -/
def kmhPerMps : Rat := 18 / 5

/-- `MAX_PRN` (R6). -/
def maxPrn : Int := 12

/-- The width of the minutes with `k` decimals: two digits and, if k is not 0, the point and k digits. For R118's
count 4 it is R119's 7 (log 12). -/
def minutesWidth (k : Nat) : Nat := if k = 0 then 2 else k + 3

/-- `pos(x, dw)`: whole degrees, then minutes with `k` decimals (R119; k is R118's count, 4 by default). -/
def posField (m : Numeric) (k : Nat) (x : Rat) (dw : Nat) : Text :=
  let g := qabs x
  let deg := g.floor
  let mins := mulN m (subN m g deg) 60
  zpad deg dw ++ fixw mins k (minutesWidth k)

/-- Latitude digits (R119). -/
def latField (p : Params) (a : Agg) : Text := posField p.numeric p.decimals.minutes a.lat 2

/-- Latitude hemisphere (R119). -/
def latHemi (a : Agg) : Text := if 0 ≤ a.lat then ascii "N" else ascii "S"

/-- Longitude digits (R119). -/
def lonField (p : Params) (a : Agg) : Text := posField p.numeric p.decimals.minutes a.lon 3

/-- Longitude hemisphere (R119). -/
def lonHemi (a : Agg) : Text := if 0 ≤ a.lon then ascii "E" else ascii "W"

/-- `hhmmss.ss` (R120). -/
def timeField (t : HostTime) : Text :=
  zpad t.hh.val 2 ++ zpad t.mi.val 2 ++ zpad t.ss.val 2 ++ ascii "." ++ zpad t.cs.val 2

/-- `ddmmyy` (R120). -/
def dateField (t : HostTime) : Text := zpad t.dd.val 2 ++ zpad t.mo.val 2 ++ zpad t.yy.val 2

/-- Speed in knots (R121). -/
def knots (m : Numeric) (a : Agg) : Rat := mulN m a.gpsVel (litN m knotsPerMps)

/-- Speed in km/h (R121). -/
def kmh (m : Numeric) (a : Agg) : Rat := mulN m a.gpsVel (litN m kmhPerMps)

/-- Magnetic heading `hdg_m` (R122). -/
def magHeading (m : Numeric) (a : Agg) : Rat := if a.yaw < 0 then addN m a.yaw 360 else a.yaw

/-- True heading `hdg_t`, wrapped by the floored modulo, in [0, 360) in either domain (R123, R160). -/
def trueHeading (m : Numeric) (a : Agg) (d : Rat) : Rat := floorMod (addN m (magHeading m a) d) 360

/-- Rate of turn in degrees per minute (R124). -/
def rateOfTurn (m : Numeric) (a : Agg) : Rat := mulN m a.wz 60

/-- The satellite placeholders 01.. up to twelve, the others empty (R130, D35). -/
def prnFields (sats : Int) : List Text :=
  (List.range 12).map fun i : Nat => if (i : Int) < max 0 (min sats maxPrn) then zpad (i + 1) 2 else []

/-- GPGGA, position fix (R126, R127). -/
def bodyGGA (p : Params) (a : Agg) (now : HostTime) : Text :=
  sentenceBody "GPGGA"
    [timeField now, latField p a, latHemi a, lonField p a, lonHemi a,
      if fixValid a then ascii "1" else ascii "0", zpad a.sats 2,
      fix a.hdop p.decimals.dop, fix a.gpsAlt p.decimals.gpsAlt, ascii "M", [], ascii "M", [], []]

/-- GPRMC, recommended minimum (R127, R128). -/
def bodyRMC (p : Params) (a : Agg) (d : Rat) (now : HostTime) : Text :=
  sentenceBody "GPRMC"
    [timeField now, if fixValid a then ascii "A" else ascii "V", latField p a, latHemi a,
      lonField p a, lonHemi a, fix (knots p.numeric a) p.decimals.speed,
      fix a.gpsHdg p.decimals.track, dateField now, fix (qabs d) p.decimals.variation,
      if d < 0 then ascii "W" else ascii "E"]

/-- GPVTG, track and speed (R129). -/
def bodyVTG (p : Params) (a : Agg) : Text :=
  sentenceBody "GPVTG"
    [fix a.gpsHdg p.decimals.track, ascii "T", fix a.gpsHdg p.decimals.track, ascii "M",
      fix (knots p.numeric a) p.decimals.speed, ascii "N", fix (kmh p.numeric a) p.decimals.speed, ascii "K"]

/-- GPGSA, satellites and dilution of precision (R127, R130). -/
def bodyGSA (p : Params) (a : Agg) : Text :=
  sentenceBody "GPGSA"
    ([ascii "A", if fixValid a then ascii "3" else ascii "1"] ++ prnFields a.sats ++
      [fix a.pdop p.decimals.dop, fix a.hdop p.decimals.dop, fix a.vdop p.decimals.dop])

/-- HCHDM, magnetic heading (R131). -/
def bodyHDM (p : Params) (a : Agg) : Text :=
  sentenceBody "HCHDM" [fix (magHeading p.numeric a) p.decimals.heading, ascii "M"]

/-- HCHDT, true heading (R132). -/
def bodyHDT (p : Params) (a : Agg) (d : Rat) : Text :=
  sentenceBody "HCHDT" [fix (trueHeading p.numeric a d) p.decimals.heading, ascii "T"]

/-- TIROT, rate of turn, always valid (R133). -/
def bodyROT (p : Params) (a : Agg) : Text :=
  sentenceBody "TIROT" [fix (rateOfTurn p.numeric a) p.decimals.rateOfTurn, ascii "A"]

/-- IIXDR: transducer type, value, unit, transducer tag (R134 to R137). -/
def bodyXDR (kind : String) (value : Text) (unit tag : String) : Text :=
  sentenceBody "IIXDR" [ascii kind, value, ascii unit, ascii tag]

/-- IIXDR PTCH (R134). -/
def bodyPitch (p : Params) (a : Agg) : Text := bodyXDR "A" (fix a.pitch p.decimals.attitude) "D" "PTCH"

/-- IIXDR ROLL (R134). -/
def bodyRoll (p : Params) (a : Agg) : Text := bodyXDR "A" (fix a.roll p.decimals.attitude) "D" "ROLL"

/-- IIXDR BARO, the pressure in bar (R135). -/
def bodyBaro (p : Params) (a : Agg) : Text :=
  bodyXDR "P" (fix (divN p.numeric a.pressure 1000) p.decimals.pressure) "B" "BARO"

/-- IIXDR TEMP (R136). -/
def bodyTemp (p : Params) (a : Agg) : Text := bodyXDR "C" (fix a.temp p.decimals.temp) "C" "TEMP"

/-- IIXDR ACCX (R137). -/
def bodyAccX (p : Params) (a : Agg) : Text := bodyXDR "G" (fix a.ax p.decimals.accel) "" "ACCX"

/-- IIXDR ACCY (R137). -/
def bodyAccY (p : Params) (a : Agg) : Text := bodyXDR "G" (fix a.ay p.decimals.accel) "" "ACCY"

/-- IIXDR ACCZ (R137). -/
def bodyAccZ (p : Params) (a : Agg) : Text := bodyXDR "G" (fix a.az p.decimals.accel) "" "ACCZ"

/-- The fourteen sentence bodies in the order of R138, each with its condition (R125). -/
def sentenceTable (p : Params) (a : Agg) (d : Rat) (now : HostTime) : List (Bool × Text) :=
  [(gpsOn a, bodyGGA p a now), (gpsOn a, bodyRMC p a d now), (vtgOn a, bodyVTG p a), (gpsOn a, bodyGSA p a),
    (true, bodyHDM p a), (true, bodyHDT p a d), (true, bodyROT p a),
    (true, bodyPitch p a), (true, bodyRoll p a), (true, bodyBaro p a), (true, bodyTemp p a),
    (true, bodyAccX p a), (true, bodyAccY p a), (true, bodyAccZ p a)]

/-- `generate(a, d, now)`: the lines of the sentences whose condition holds, in order (R110, R138). -/
def generate (p : Params) (a : Agg) (d : Rat) (now : HostTime) : List Text :=
  ((sentenceTable p a d now).filter Prod.fst).map fun e => sentenceLine e.2

end Sys2Proof.Machine
end

