-- ==== Sys2Proof/Machine/Ops.lean ====
section
/-!
DEFINITION. The named operations over the state: the synchronizer's feed (R76 to R78), accepting and rejecting a frame (R75,
R153; an error verdict is the block's whole exception mechanism, with no entry and no return, R153, R154), and the host's
operations (R159).
-/

namespace Sys2Proof.Machine

/-- The per-step outputs emptied: they exist only during the step that makes them (R20, R32, R34). -/
def State.quiet (s : State) : State := { s with verdict := none, candidate := none }

/-- The host's next operation taken off the input, and the per-step outputs emptied for the step it makes (R50). -/
def State.advance (rest : List HostOp) (s : State) : State :=
  { s with input := rest, verdict := none, candidate := none }

/-- `feed(S, b)`: the synchronizer takes one byte and may give a candidate frame (R76, R77, R78). -/
def feed (b : Byte) (s : State) : State × Option Frame :=
  if s.sync = false then
    if b = header then ({ s with buf := [b], sync := true }, none) else (s, none)
  else if s.buf.length ≤ 9 then ({ s with buf := s.buf ++ [b] }, none)
  else ({ s with buf := [], sync := false }, some (s.buf ++ [b]))

/-- The candidate-frame output of the step (R34). -/
def State.offer (f : Frame) (s : State) : State := { s with candidate := some f }

/-- An accepted frame, its fields already written: the verdict `OK`, and the sentences generated from the
aggregate as it now stands, appended to `out` in order (R49, R75, R138). -/
def State.accept (s : State) : State :=
  { s with verdict := some .ok, out := s.out ++ generate s.params s.agg s.decl s.now }

/-- A rejected frame: its verdict, and nothing else (R153). -/
def State.reject (e : DecodeError) (s : State) : State := { s with verdict := some (.error e) }

/-- `SET_DECL(d)` (R160). -/
def State.setDecl (d : Rat) (s : State) : State := { s with decl := d }

/-- `SET_TIME(t)` (R159, R30). -/
def State.setTime (t : HostTime) (s : State) : State := { s with now := t }

/-- `DRAIN(k)`: the first `k` lines leave `out`; there is no such operation with more lines than `out` holds
(R159, log 7). -/
def State.drain (k : Nat) (s : State) : Host.Outcome State Fault Refusal :=
  if k ≤ s.out.length then .next { s with out := s.out.drop k }
  else .refused (.drainBeyondOutput k s.out.length)

/-- `RESET`: every element of R36 at its reset value (R170). The host's inputs and the parameters are not the
block's state and stay (R30, R29, R36). -/
def State.resetBlock (s : State) : State :=
  { State.reset with now := s.now, input := s.input, params := s.params }

/-- The code of a verdict (R150). -/
def verdictCode (v : Verdict) : Nat :=
  match v with
  | .ok => 0
  | .error .framingError => 1
  | .error .checksumMismatch => 2
  | .error .unknownPacketType => 3
  | .error .conversionError => 4

end Sys2Proof.Machine
end

