-- ==== Sys2Proof/Machine/Ambient.lean ====
section
/-!
DEFINITION. The meanings of the time and barometer frames: TIME (R88), BARO (R93).
-/

namespace Sys2Proof.Machine

/-- TIME (R88): the host time is copied into `ts`; the payload is unused (R63). The frame is accepted, so it
triggers a generation like any other (D2). -/
def execTime (_t0 _t1 _t2 _t3 : Half) (s : State) : Host.Outcome State Fault Refusal :=
  .next { s with ts := some s.now }.accept

/-- BARO (R93): pressure and barometric altitude; the last field is unused (R63). -/
def execBaro (rpress : Word) (ralt _rb4 : Half) (s : State) : Host.Outcome State Fault Refusal :=
  let m := s.params.numeric
  let agg := { s.agg with pressure := hundredths m (s32 rpress), baroAlt := hundredths m (s16 ralt) }
  .next { s with agg := agg }.accept

end Sys2Proof.Machine
end

