-- ==== Sys2Proof/Machine/Inertial.lean ====
section
/-!
DEFINITION. The meanings of the inertial frames: ACC (R89), GYRO (R90), ANGLE (R91), MAG (R92), QUAT (R96).
-/

namespace Sys2Proof.Machine

/-- ACC (R89): acceleration on three axes, and the temperature. -/
def execAcc (rax ray raz rtemp : Half) (s : State) : Host.Outcome State Fault Refusal :=
  let m := s.params.numeric
  let agg := { s.agg with
    ax := accelOf m rax, ay := accelOf m ray, az := accelOf m raz, temp := hundredths m (s16 rtemp) }
  .next { s with agg := agg }.accept

/-- GYRO (R90): angular velocity on three axes; the fourth field is unused (R63). -/
def execGyro (rwx rwy rwz _rg4 : Half) (s : State) : Host.Outcome State Fault Refusal :=
  let m := s.params.numeric
  let agg := { s.agg with wx := gyroOf m rwx, wy := gyroOf m rwy, wz := gyroOf m rwz }
  .next { s with agg := agg }.accept

/-- ANGLE (R91): roll, pitch, and yaw with its sign inverted, which in `BINARY64` makes a zero yaw −0.0; the fourth
field is unused (R63). -/
def execAngle (rroll rpitch ryaw _ra4 : Half) (s : State) : Host.Outcome State Fault Refusal :=
  let m := s.params.numeric
  let agg := { s.agg with
    roll := angleOf m rroll, pitch := angleOf m rpitch, yaw := -(angleOf m ryaw),
    yawMinusZero := minusZero m (angleOf m ryaw) }
  .next { s with agg := agg }.accept

/-- MAG (R92): the raw magnetic field on three axes; the fourth field is unused (R63). -/
def execMag (rmx rmy rmz _rm4 : Half) (s : State) : Host.Outcome State Fault Refusal :=
  let agg := { s.agg with mx := s16 rmx, my := s16 rmy, mz := s16 rmz }
  .next { s with agg := agg }.accept

/-- QUAT (R96): the four components, not renormalised. -/
def execQuat (rq0 rq1 rq2 rq3 : Half) (s : State) : Host.Outcome State Fault Refusal :=
  let m := s.params.numeric
  let agg := { s.agg with q0 := quatOf m rq0, q1 := quatOf m rq1, q2 := quatOf m rq2, q3 := quatOf m rq3 }
  .next { s with agg := agg }.accept

end Sys2Proof.Machine
end

