-- ==== Sys2Proof/Machine/Positioning.lean ====
section
/-!
DEFINITION. The meanings of the satellite-positioning frames: LONLAT (R94), GPSV (R95), GPSACC (R97).
-/

namespace Sys2Proof.Machine

/-- LONLAT (R94): longitude from the first field, latitude from the second. -/
def execLonlat (rlon rlat : Word) (s : State) : Host.Outcome State Fault Refusal :=
  let agg := { s.agg with lon := geo s.params (s32 rlon), lat := geo s.params (s32 rlat) }
  .next { s with agg := agg }.accept

/-- GPSV (R95): altitude, clamped ground velocity, heading; the fourth field is unused (R63). -/
def execGpsv (rgalt rgvel rghdg _rv4 : Half) (s : State) : Host.Outcome State Fault Refusal :=
  let m := s.params.numeric
  let agg := { s.agg with
    gpsAlt := tenths m (s16 rgalt), gpsVel := clampVelocity (tenths m (s16 rgvel)),
    gpsHdg := tenths m (s16 rghdg) }
  .next { s with agg := agg }.accept

/-- GPSACC (R97): the satellite count as it is, and the three dilutions of precision. -/
def execGpsacc (rsats rpdop rhdop rvdop : Half) (s : State) : Host.Outcome State Fault Refusal :=
  let m := s.params.numeric
  let agg := { s.agg with
    sats := s16 rsats, pdop := hundredths m (s16 rpdop), hdop := hundredths m (s16 rhdop),
    vdop := hundredths m (s16 rvdop) }
  .next { s with agg := agg }.accept

end Sys2Proof.Machine
end

