-- ==== Sys2Proof/Machine/Dispatch.lean ====
section
/-!
DEFINITION. The dispatch on the ten frame types (R87), one arm each.
-/

namespace Sys2Proof.Machine

def exec (i : Instr) (s : State) : Host.Outcome State Fault Refusal :=
  match i with
  | .time t0 t1 t2 t3 => Sys2Proof.Machine.execTime t0 t1 t2 t3 s
  | .acc rax ray raz rtemp => Sys2Proof.Machine.execAcc rax ray raz rtemp s
  | .gyro rwx rwy rwz rg4 => Sys2Proof.Machine.execGyro rwx rwy rwz rg4 s
  | .angle rroll rpitch ryaw ra4 => Sys2Proof.Machine.execAngle rroll rpitch ryaw ra4 s
  | .mag rmx rmy rmz rm4 => Sys2Proof.Machine.execMag rmx rmy rmz rm4 s
  | .baro rpress ralt rb4 => Sys2Proof.Machine.execBaro rpress ralt rb4 s
  | .lonlat rlon rlat => Sys2Proof.Machine.execLonlat rlon rlat s
  | .gpsv rgalt rgvel rghdg rv4 => Sys2Proof.Machine.execGpsv rgalt rgvel rghdg rv4 s
  | .quat rq0 rq1 rq2 rq3 => Sys2Proof.Machine.execQuat rq0 rq1 rq2 rq3 s
  | .gpsacc rsats rpdop rhdop rvdop => Sys2Proof.Machine.execGpsacc rsats rpdop rhdop rvdop s

end Sys2Proof.Machine
end

