-- ==== Sys2Proof/Machine/Block.lean ====
section
/-!
DEFINITION. The block step (R75) and the host's operations (R159), each taking the state from which the operation has already
been removed.
-/

namespace Sys2Proof.Machine

/-- A candidate frame, after the feed: it is put on the candidate output, validated, and run or rejected (R75,
R85). -/
def runCandidate (f : Frame) (s : State) : Host.Outcome State Fault Refusal :=
  match decodeFrame f with
  | .error e => .next ((s.offer f).reject e)
  | .ok i => exec i (s.offer f)

/-- `step(S, b, now)` of R75, the time input being `s.now`: feed, then, if a frame completed, validate, decode
and generate. -/
def blockStep (b : Byte) (s : State) : Host.Outcome State Fault Refusal :=
  match feed b s with
  | (t, none) => .next t
  | (t, some f) => runCandidate f t

/-- One host operation (R159). -/
def hostOp (op : HostOp) (s : State) : Host.Outcome State Fault Refusal :=
  match op with
  | .deliver b => blockStep b s
  | .setDecl d => .next (s.setDecl d)
  | .setTime t => .next (s.setTime t)
  | .drain k => s.drain k
  | .reset => .next s.resetBlock

/-- The host makes its next move, or none: then the block holds its state (R31, R167; log 3). -/
def hostMove (s : State) : Host.Outcome State Fault Refusal :=
  match s.input with
  | [] => .next s.quiet
  | op :: rest => hostOp op (s.advance rest)

/-- The state in which `f` is one byte short of complete, and that byte is the host's next delivery (log 14). -/
def State.awaitLast (f : Frame) (s : State) : State :=
  { s with sync := true, buf := f.take 10, input := .deliver (byteAt f 10) :: s.input }

end Sys2Proof.Machine
end

