-- ==== Sys2Proof/Machine/Step.lean ====
section
/-!
DEFINITION. The machine's step, one host operation at a time, and the placing of one instruction for the next step.
-/

namespace Sys2Proof.Machine

/-- One step: the host's next operation, or an idle step when the host asks nothing (R50, R159). -/
def step (s : State) : Host.Outcome State Fault Refusal := hostMove s

/-- `s` with the frame of an opcode-table word received up to its last byte, which the next step takes (log 14). -/
def State.withFetchWord (s : State) (nbits w : Nat) : State := s.awaitLast (tableFrame nbits w)

end Sys2Proof.Machine
end

