-- ==== Sys2Proof/Safety.lean ====
section
/-!
DEFINITION. The terms the claims are stated in: the invariants of a run, the observation of a run (R161), and how a printed
number or line is read back.
-/

namespace Sys2Proof.Machine

/-- The synchronizer's invariant between steps (R22). -/
def SyncInv (s : State) : Prop :=
  (s.sync = false → s.buf = []) ∧
    (s.sync = true → 1 ≤ s.buf.length ∧ s.buf.length ≤ 10 ∧ s.buf.head? = some 0x55#8)

/-- A character of R47 inside a sentence body: printable ASCII, and neither "$" nor "*" (R112). -/
def BodyChar (c : Byte) : Prop := 0x20 ≤ c.toNat ∧ c.toNat ≤ 0x7E ∧ c ≠ 0x24#8 ∧ c ≠ 0x2A#8

/-- One complete sentence line (R47, R113). -/
def SentenceLine (l : Text) : Prop := ∃ body : Text, (∀ c ∈ body, BodyChar c) ∧ l = sentenceLine body

/-- Every line waiting in `out` is a whole sentence line (R33, R47). -/
def OutInv (s : State) : Prop := ∀ l ∈ s.out, SentenceLine l

/-- The bounds the decode rules give the aggregate: the clamped velocity (R95), in exact arithmetic the yaw range on
which R122 rests, and a yaw of −0.0 only in `BINARY64` and only as a zero (R91). -/
def AggInv (s : State) : Prop :=
  (-200 ≤ s.agg.gpsVel ∧ s.agg.gpsVel ≤ 200) ∧
    (s.params.numeric = .exact → -180 < s.agg.yaw ∧ s.agg.yaw ≤ 180) ∧
    (s.agg.yawMinusZero = true → s.params.numeric = .binary64 ∧ s.agg.yaw = 0)

/-- The invariant of the whole machine. -/
def Inv (s : State) : Prop := SyncInv s ∧ OutInv s ∧ AggInv s

/-- The state an accepted frame leaves when it writes the aggregate `a`: the verdict, and one generation from
`a` appended to `out`; everything else as before (R75, R48). -/
def acceptedWith (s : State) (a : Agg) : State :=
  { s with agg := a, verdict := some .ok, out := s.out ++ generate s.params a s.decl s.now }

/-- The lines the host takes in the next step (R159 DRAIN). -/
def drainedBy (s : State) : List Text :=
  match s.input with
  | .drain k :: _ => s.out.take k
  | _ => []

/-- The (candidate frame, verdict) pair of the step that ended in `s`, if it completed a frame (R32, R34). -/
def eventOf (s : State) : List (Frame × Verdict) :=
  match s.candidate, s.verdict with
  | some f, some v => [(f, v)]
  | _, _ => []

/-- What R161 says is observed of a run. -/
structure Observation where
  lines : List Text
  events : List (Frame × Verdict)
  agg : Agg
  deriving DecidableEq, Repr

/-- The observation of `k` steps from `s`, where all of them are made (R161): the lines drained in order and
then the final `out`, the pairs of the steps, and the final aggregate. -/
def observe : Nat → State → Option Observation
  | 0, s => some { lines := s.out, events := [], agg := s.agg }
  | k + 1, s =>
    match step s with
    | .next t =>
      (observe k t).map fun o =>
        { lines := drainedBy s ++ o.lines, events := eventOf t ++ o.events, agg := o.agg }
    | .fault _ => none
    | .refused _ => none

/-- R94's exact reading of a DDM field: `sign(r) × (d + m / 60)` with `a = |r| / 10^7`, `d = floor(a)` and
`m = (a − d) × 100`. -/
def ddmDegrees (r : Int) : Rat :=
  let a : Rat := |(r : Rat)| / 10 ^ 7
  (r.sign : Rat) * (⌊a⌋ + (a - ⌊a⌋) * 100 / 60)

/-- R94's `BINARY64` order of the same reading, each operation rounded. -/
def ddmBinary64 (r : Int) : Rat :=
  let a : Rat := roundBinary64 (|(r : Rat)| / 10 ^ 7)
  let m := roundBinary64 (roundBinary64 (a - ⌊a⌋) * 100)
  let x := roundBinary64 (⌊a⌋ + roundBinary64 (m / 60))
  if r < 0 then -x else x

/-- The verdict of a frame (R85). -/
def verdictOf (f : Frame) : Verdict :=
  match decodeFrame f with
  | .ok _ => .ok
  | .error e => .error e

/-- The number a row of decimal digits spells. -/
def readDigits (t : Text) : Nat := t.foldl (fun n c => 10 * n + (c.toNat - 0x30)) 0

/-- Is `c` a decimal digit? -/
def isDigit (c : Byte) : Bool := 0x30 ≤ c.toNat && c.toNat ≤ 0x39

/-- The sixteen hexadecimal digits, uppercase, the digit of n at index n (R13). -/
def hexDigits : Text :=
  [0x30#8, 0x31#8, 0x32#8, 0x33#8, 0x34#8, 0x35#8, 0x36#8, 0x37#8, 0x38#8, 0x39#8,
    0x41#8, 0x42#8, 0x43#8, 0x44#8, 0x45#8, 0x46#8]

/-- The characters strictly between the first character of a line and its "*" (R114). -/
def bodyOfLine (l : Text) : Text := (l.drop 1).takeWhile (· ≠ 0x2A#8)

end Sys2Proof.Machine
end

