-- ==== Sys2Proof/Certificates/Slice0/Obligations.lean ====
section
/-!
DEFINITION. The statements for the provers, each a rule of spec/ or read from its sections. "The model's choice" in a
docstring names the assumption log's row it rests on.
-/

open Sys2Proof Sys2Proof.Machine

/-! ## Frames: encoding, validation -/

/-- Decoding the encoding of any instruction gives that instruction back, every operand at every value (R55, R60,
R68). -/
def Obligations.DecodeOfEncodeIsTheInstruction : Prop :=
  ∀ i : Instr, decodeFrame (encode i) = .ok i

/-- The other direction: an accepted frame is the encoding of the instruction it decodes to, so no two accepted
frames are read alike and every byte counts (R55, R57, R60). -/
def Obligations.AcceptedFrameIsItsEncoding : Prop :=
  ∀ (f : Frame) (i : Instr), decodeFrame f = .ok i → encode i = f

/-- The checks run in the order framing, checksum, tag, and the first that fails gives the verdict (R85, R152;
R152 is the spec's own derivation). The conditions are those of WellFormed.lean, not the decoder's. -/
def Obligations.FirstFailingCheckGivesTheVerdict : Prop :=
  ∀ f : Frame,
    (¬(f.lengthOk = true ∧ f.headerOk = true) → decodeFrame f = .error .framingError) ∧
    (f.lengthOk = true → f.headerOk = true → f.checksumOk = false →
      decodeFrame f = .error .checksumMismatch) ∧
    (f.lengthOk = true → f.headerOk = true → f.checksumOk = true → f.tagOk = false →
      decodeFrame f = .error .unknownPacketType) ∧
    (f.wellFormed = true → ∃ i, decodeFrame f = .ok i)

/-- Ten bytes sealed with their own sum are accepted exactly when they begin with the header and a recognised
tag (R100, the spec's own derivation, and C6). -/
def Obligations.SealedBytesAreAcceptedByHeaderAndTag : Prop :=
  ∀ g : Frame, g.length = 10 →
    (g.headerOk = true → g.tagOk = true → verdictOf (g ++ [ck g]) = .ok) ∧
    (g.headerOk = false → verdictOf (g ++ [ck g]) = .error .framingError) ∧
    (g.headerOk = true → g.tagOk = false → verdictOf (g ++ [ck g]) = .error .unknownPacketType)

/-- One flipped bit of an accepted frame is always caught: in byte 0 as a framing error, in bytes 1 to 10 as a
checksum mismatch (R101, C7). -/
def Obligations.SingleBitFlipIsCaught : Prop :=
  ∀ (f : Frame) (i : Instr), decodeFrame f = .ok i → ∀ k j : Nat, k < 11 → j < 8 →
    decodeFrame (f.set k (byteAt f k ^^^ (1#8 <<< j))) =
      .error (if k = 0 then .framingError else .checksumMismatch)

/-- The checksum cannot see a permutation of bytes 1 to 9, nor a change of +k in one of them made up for by −k
in another (R102, the spec's own derivation). -/
def Obligations.ChecksumMissesPermutationsAndCompensation : Prop :=
  (∀ f g : Frame, f.length = 11 → g.length = 11 → byteAt f 0 = byteAt g 0 → byteAt f 10 = byteAt g 10 →
    ((f.drop 1).take 9).Perm ((g.drop 1).take 9) → f.checksumOk = g.checksumOk) ∧
  (∀ (f : Frame) (a b : Nat) (k : Byte), f.length = 11 → 1 ≤ a → a ≤ 9 → 1 ≤ b → b ≤ 9 → a ≠ b →
    Frame.checksumOk ((f.set a (byteAt f a + k)).set b (byteAt f b - k)) = f.checksumOk)

/-- The unrecognised tags are 0x00..0x4F, 0x56 and 0x5B..0xFF, 246 values, and each gives UnknownPacketType when
header and checksum are good (R65, the spec's own derivation). -/
def Obligations.UnrecognisedTagsAreTheOther246 : Prop :=
  (∀ f : Frame, f.lengthOk = true → f.headerOk = true → f.checksumOk = true →
    (decodeFrame f = .error .unknownPacketType ↔
      (byteAt f 1).toNat ≤ 0x4F ∨ (byteAt f 1).toNat = 0x56 ∨ 0x5B ≤ (byteAt f 1).toNat)) ∧
  ((List.range 256).filter fun n => decide (n ≤ 0x4F ∨ n = 0x56 ∨ 0x5B ≤ n)).length = 246

/-- No frame is ever given ConversionError (R98, the spec's own derivation). -/
def Obligations.ConversionErrorIsNeverGiven : Prop :=
  ∀ f : Frame, decodeFrame f ≠ .error .conversionError

/-- Frames of the spec's own examples decode to the instructions they stand for (R91, R92, R97, VD10, VD12). -/
def Obligations.SampleFramesDecode : Prop :=
  decodeFrame [0x55, 0x53, 0x00, 0x00, 0x00, 0x00, 0x00, 0x47, 0x00, 0x00, 0xEF] = .ok (.angle 0 0 0x4700 0) ∧
  decodeFrame [0x55, 0x54, 0xFF, 0xFF, 0x00, 0x00, 0x2C, 0x01, 0x00, 0x00, 0xD4] = .ok (.mag (-1) 0 300 0) ∧
  decodeFrame [0x55, 0x55, 0xCD, 0x8B, 0x01, 0x00, 0xD2, 0x04, 0x00, 0x00, 0xD9] = .ok (.baro 101325 1234 0) ∧
  decodeFrame [0x55, 0x57, 0x32, 0x7C, 0x24, 0xB7, 0xAE, 0x39, 0x3C, 0x16, 0x6E] =
    .ok (.lonlat (-1222345678) 373045678) ∧
  decodeFrame [0x55, 0x5A, 0x08, 0x00, 0x96, 0x00, 0x5A, 0x00, 0x78, 0x00, 0x1F] = .ok (.gpsacc 8 150 90 120)

/-- The verdict codes (R150). -/
def Obligations.VerdictCodesAreTheTable : Prop :=
  verdictCode .ok = 0 ∧ verdictCode (.error .framingError) = 1 ∧ verdictCode (.error .checksumMismatch) = 2 ∧
    verdictCode (.error .unknownPacketType) = 3 ∧ verdictCode (.error .conversionError) = 4

/-! ## The synchronizer and the block step -/

/-- A byte delivered while unsynchronized starts a frame if it is 0x55 and is discarded otherwise (R76). -/
def Obligations.UnsynchronizedByteStartsAFrameOrIsDiscarded : Prop :=
  ∀ (s : State) (b : Byte) (rest : List HostOp), s.sync = false → s.input = .deliver b :: rest →
    step s = .next
      (if b = 0x55#8 then
        { s with sync := true, buf := [0x55#8], input := rest, verdict := none, candidate := none }
      else { s with input := rest, verdict := none, candidate := none })

/-- A byte delivered while synchronized with at most nine bytes held is appended, whatever its value (R77). -/
def Obligations.SynchronizedByteIsAppended : Prop :=
  ∀ (s : State) (b : Byte) (rest : List HostOp), s.sync = true → s.buf.length ≤ 9 →
    s.input = .deliver b :: rest →
    step s = .next { s with buf := s.buf ++ [b], input := rest, verdict := none, candidate := none }

/-- The eleventh byte gives the candidate, whatever its checksum, and the synchronizer starts afresh (R78). A
verdict is given in that step (R32). -/
def Obligations.EleventhByteGivesTheCandidate : Prop :=
  ∀ (s : State) (b : Byte) (rest : List HostOp), s.sync = true → s.buf.length = 10 →
    s.input = .deliver b :: rest →
    ∃ t, step s = .next t ∧ t.candidate = some (s.buf ++ [b]) ∧ t.buf = [] ∧ t.sync = false ∧
      t.input = rest ∧ t.verdict = some (verdictOf (s.buf ++ [b]))

/-- A step that completes an accepted frame runs the instruction it decodes to, from the state with the
synchronizer cleared, the byte consumed and the candidate on its output (R75, R85). -/
def Obligations.StepRunsTheDecodedFrame : Prop :=
  ∀ (s : State) (b : Byte) (rest : List HostOp) (i : Instr), s.sync = true → s.buf.length = 10 →
    s.input = .deliver b :: rest → decodeFrame (s.buf ++ [b]) = .ok i →
    step s = exec i { s with
      sync := false, buf := [], input := rest, verdict := none, candidate := some (s.buf ++ [b]) }

/-- A frame placed as an opcode-table word is run by the very next step (the model's choice, log 14). -/
def Obligations.PlacedTableWordIsRunNext : Prop :=
  ∀ (s : State) (nbits w : Nat) (i : Instr), decodeTableWord nbits w = some i →
    step (s.withFetchWord nbits w) = exec i { s with
      sync := false, buf := [], verdict := none, candidate := some (tableFrame nbits w) }

/-- A rejected frame leaves its verdict and its candidate on the outputs and changes nothing but the
synchronizer: no field, no other state, no sentence, and the next byte is met unsynchronized (R153). -/
def Obligations.RejectedFrameChangesNothingElse : Prop :=
  ∀ (s : State) (b : Byte) (rest : List HostOp) (e : DecodeError), s.sync = true → s.buf.length = 10 →
    s.input = .deliver b :: rest → decodeFrame (s.buf ++ [b]) = .error e →
    step s = .next { s with
      sync := false, buf := [], input := rest, verdict := some (.error e), candidate := some (s.buf ++ [b]) }

/-- Once synchronized the block takes exactly the bytes still missing, whatever they are, and only then is
unsynchronized again with the frame as candidate (R81, R83, the spec's own derivations). -/
def Obligations.LockedFrameTakesExactlyElevenBytes : Prop :=
  ∀ (s : State) (bs : List Byte) (rest : List HostOp), SyncInv s → s.sync = true →
    s.buf.length + bs.length = 11 → s.input = bs.map HostOp.deliver ++ rest →
    (∀ m, 1 ≤ m → m < bs.length → ∃ t, Host.Core.run Sys2Proof.core m s = .next t ∧ t.sync = true ∧
      t.buf = s.buf ++ bs.take m ∧ t.candidate = none ∧ t.verdict = none) ∧
    ∃ t, Host.Core.run Sys2Proof.core bs.length s = .next t ∧ t.sync = false ∧ t.buf = [] ∧
      t.input = rest ∧ t.candidate = some (s.buf ++ bs)

/-- Feeding a concatenation of complete frames byte by byte gives exactly those frames as candidates, in order,
each with its own verdict (R82). -/
def Obligations.UncorruptedStreamGivesItsFrames : Prop :=
  ∀ (fs : List Frame) (s : State) (rest : List HostOp),
    (∀ f ∈ fs, f.lengthOk = true ∧ f.headerOk = true) → s.sync = false →
    s.input = fs.flatten.map HostOp.deliver ++ rest →
    ∃ o, observe (11 * fs.length) s = some o ∧ o.events = fs.map fun f => (f, verdictOf f)

/-- What a byte has already been part of is not looked at again: the candidates and verdicts of a stream from an
unsynchronized state depend on the bytes alone, not on the aggregate, the time, the declination or the lines
waiting (R79, R154; R154 is the spec's own derivation). -/
def Obligations.CandidatesDependOnTheBytesAlone : Prop :=
  ∀ (k : Nat) (bs : List Byte) (s u : State), k ≤ bs.length → s.sync = u.sync → s.buf = u.buf →
    s.input = bs.map HostOp.deliver → u.input = bs.map HostOp.deliver →
    ∃ o p, observe k s = some o ∧ observe k u = some p ∧ o.events = p.events

/-- With no host operation waiting the block holds its state, its outputs empty (R31, R167; that such a step
exists is the model's choice, log 3 and log 4). -/
def Obligations.IdleStepHoldsTheState : Prop :=
  ∀ s : State, s.input = [] → step s = .next { s with verdict := none, candidate := none }

/-! ## The host's operations and reset -/

/-- SET_DECL writes the declination and nothing else, without a range check (R160). -/
def Obligations.SetDeclWritesTheDeclination : Prop :=
  ∀ (s : State) (d : Rat) (rest : List HostOp), s.input = .setDecl d :: rest →
    step s = .next { s with decl := d, input := rest, verdict := none, candidate := none }

/-- SET_TIME changes the time input, DRAIN takes the first lines of `out` (R159). That a drain of more lines than
there are is refused is the model's choice (log 7). -/
def Obligations.SetTimeAndDrainDoWhatTheySay : Prop :=
  (∀ (s : State) (t : HostTime) (rest : List HostOp), s.input = .setTime t :: rest →
    step s = .next { s with now := t, input := rest, verdict := none, candidate := none }) ∧
  (∀ (s : State) (taken left : List Text) (rest : List HostOp), s.input = .drain taken.length :: rest →
    s.out = taken ++ left →
    step s = .next { s with out := left, input := rest, verdict := none, candidate := none }) ∧
  (∀ (s : State) (k : Nat) (rest : List HostOp), s.input = .drain k :: rest → s.out.length < k →
    step s = .refused (.drainBeyondOutput k s.out.length))

/-- Reset sets every element of the state to its value in R36, in the middle of a frame too, and produces no
verdict, candidate or sentence (R170). That the host's inputs and the parameters stay is read from R36, which does
not list them (log 18). -/
def Obligations.ResetSetsEveryElement : Prop :=
  (State.reset.sync = false ∧ State.reset.buf = [] ∧ State.reset.agg = Agg.zero ∧ State.reset.ts = none ∧
    State.reset.decl = 0 ∧ State.reset.out = []) ∧
  ∀ (s : State) (rest : List HostOp), s.input = .reset :: rest →
    step s = .next { s with
      sync := false, buf := [], agg := Agg.zero, ts := none, decl := 0, out := [], input := rest,
      verdict := none, candidate := none }

/-! ## Whole-machine rules -/

/-- The invariant of the machine is kept by every step: the synchronizer's invariant, whole sentence lines in
`out`, and the bounds of the clamped velocity and of the yaw (R22, R47, R95, R122). -/
def Obligations.EveryStepKeepsTheInvariant : Prop :=
  ∀ s t : State, Inv s → step s = .next t → Inv t

/-- The state after reset meets the invariant. -/
def Obligations.ResetMeetsTheInvariant : Prop := Inv State.reset

/-- The synchronizer's invariant alone is kept by every step (R22). -/
def Obligations.EveryStepKeepsTheSynchronizerInvariant : Prop :=
  ∀ s t : State, SyncInv s → step s = .next t → SyncInv t

/-- On the stream path no frame is a framing error (R99, the spec's own derivation). -/
def Obligations.FramingErrorIsUnreachable : Prop :=
  ∀ s t : State, SyncInv s → step s = .next t → t.verdict ≠ some (.error .framingError)

/-- The block has no fatal condition (R155): a step answers a next state, unless the host asks for a drain of more
lines than `out` holds (the model's choice, log 7). -/
def Obligations.OnlyAnImpossibleDrainStops : Prop :=
  ∀ s : State,
    (∃ t, step s = .next t) ∨
    (∃ k rest, s.input = .drain k :: rest ∧ s.out.length < k ∧
      step s = .refused (.drainBeyondOutput k s.out.length))

/-- Who may write what (R22, R23, R26 to R30, R32 to R35): `sync` and `buf` change only when a byte is delivered or at
a reset; the aggregate only with an accepted frame or a reset; the timestamp only with an accepted TIME frame or a
reset; the declination only by SET_DECL or a reset; `out` only with an accepted frame, a drain or a reset; the
verdict and the candidate are there only when a delivered byte completes a frame, and are that frame's; the time
input changes only by SET_TIME, the parameters never, and one host operation is consumed (the queue and the two
output fields are the model's, log 2 and log 4). -/
def Obligations.EachElementHasItsWriters : Prop :=
  ∀ s t : State, step s = .next t →
    ((t.sync = s.sync ∧ t.buf = s.buf) ∨ (∃ b, s.input.head? = some (.deliver b)) ∨
      s.input.head? = some .reset) ∧
    (t.agg = s.agg ∨ t.verdict = some .ok ∨ s.input.head? = some .reset) ∧
    (t.ts = s.ts ∨ s.input.head? = some .reset ∨
      (t.ts = some s.now ∧ ∃ f t0 t1 t2 t3, t.candidate = some f ∧ decodeFrame f = .ok (.time t0 t1 t2 t3))) ∧
    (t.decl = s.decl ∨ s.input.head? = some .reset ∨ s.input.head? = some (.setDecl t.decl)) ∧
    (t.out = s.out ∨ t.verdict = some .ok ∨ s.input.head? = some .reset ∨
      ∃ k, s.input.head? = some (.drain k) ∧ t.out = s.out.drop k) ∧
    ((t.verdict = none ∧ t.candidate = none) ∨
      ∃ b, s.input.head? = some (.deliver b) ∧ s.sync = true ∧ 10 ≤ s.buf.length ∧
        t.candidate = some (s.buf ++ [b]) ∧ t.verdict = some (verdictOf (s.buf ++ [b]))) ∧
    (t.now = s.now ∨ s.input.head? = some (.setTime t.now)) ∧
    t.params = s.params ∧ t.input = s.input.tail

/-- A frame of one type writes exactly the fields its rule names: every group of the aggregate is left alone by
the nine types that do not write it, and `ts` by all but TIME (R24, R25). -/
def Obligations.FramesLeaveOtherFieldsAlone : Prop :=
  ∀ (i : Instr) (s t : State), exec i s = .next t →
    ((∀ a b c d, i ≠ .acc a b c d) →
      t.agg.ax = s.agg.ax ∧ t.agg.ay = s.agg.ay ∧ t.agg.az = s.agg.az ∧ t.agg.temp = s.agg.temp) ∧
    ((∀ a b c d, i ≠ .gyro a b c d) →
      t.agg.wx = s.agg.wx ∧ t.agg.wy = s.agg.wy ∧ t.agg.wz = s.agg.wz) ∧
    ((∀ a b c d, i ≠ .angle a b c d) →
      t.agg.roll = s.agg.roll ∧ t.agg.pitch = s.agg.pitch ∧ t.agg.yaw = s.agg.yaw ∧
        t.agg.yawMinusZero = s.agg.yawMinusZero) ∧
    ((∀ a b c d, i ≠ .mag a b c d) →
      t.agg.mx = s.agg.mx ∧ t.agg.my = s.agg.my ∧ t.agg.mz = s.agg.mz) ∧
    ((∀ a b c, i ≠ .baro a b c) → t.agg.pressure = s.agg.pressure ∧ t.agg.baroAlt = s.agg.baroAlt) ∧
    ((∀ a b, i ≠ .lonlat a b) → t.agg.lon = s.agg.lon ∧ t.agg.lat = s.agg.lat) ∧
    ((∀ a b c d, i ≠ .gpsv a b c d) →
      t.agg.gpsAlt = s.agg.gpsAlt ∧ t.agg.gpsVel = s.agg.gpsVel ∧ t.agg.gpsHdg = s.agg.gpsHdg) ∧
    ((∀ a b c d, i ≠ .quat a b c d) →
      t.agg.q0 = s.agg.q0 ∧ t.agg.q1 = s.agg.q1 ∧ t.agg.q2 = s.agg.q2 ∧ t.agg.q3 = s.agg.q3) ∧
    ((∀ a b c d, i ≠ .gpsacc a b c d) →
      t.agg.sats = s.agg.sats ∧ t.agg.pdop = s.agg.pdop ∧ t.agg.hdop = s.agg.hdop ∧
        t.agg.vdop = s.agg.vdop) ∧
    ((∀ a b c d, i ≠ .time a b c d) → t.ts = s.ts)

/-- Nothing is lost or made up on the way out: what the host takes in a step and what is left are the old lines
followed, in a step with verdict OK and only then, by one generation from the aggregate after the commit (R33,
R49, R75). -/
def Obligations.LinesAreOnlyAppendedAndDrained : Prop :=
  ∀ s t : State, step s = .next t → s.input.head? ≠ some .reset →
    drainedBy s ++ t.out =
      s.out ++ (if t.verdict = some .ok then generate s.params t.agg s.decl s.now else [])

/-- No rule reads the timestamp: two states that differ only there step alike and differ only there (R27, U13). -/
def Obligations.NoRuleReadsTheTimestamp : Prop :=
  ∀ (s t : State) (x : Option HostTime), step s = .next t →
    ∃ y, step { s with ts := x } = .next { t with ts := y }

/-- The magnetic field, the x and y rates, the barometric altitude and the quaternion reach no sentence, nor does the
sign of a zero yaw (U4), so MAG, QUAT and TIME frames repeat the generation of the aggregate as it was (R141,
R179, the spec's own derivations). -/
def Obligations.UnprintedFieldsReachNoSentence : Prop :=
  (∀ (p : Params) (a b : Agg) (d : Rat) (now : HostTime),
    generate p { a with
      mx := b.mx, my := b.my, mz := b.mz, wx := b.wx, wy := b.wy, baroAlt := b.baroAlt,
      q0 := b.q0, q1 := b.q1, q2 := b.q2, q3 := b.q3, yawMinusZero := b.yawMinusZero } d now = generate p a d now) ∧
  (∀ (i : Instr) (s t : State),
    ((∃ a b c d, i = .mag a b c d) ∨ (∃ a b c d, i = .quat a b c d) ∨ ∃ a b c d, i = .time a b c d) →
    exec i s = .next t → t.out = s.out ++ generate s.params s.agg s.decl s.now)

/-! ## The ten frame types -/

/-- TIME copies the host time into `ts`, leaves the aggregate, and is accepted like any frame (R88). -/
def Obligations.TimeCopiesTheHostTime : Prop :=
  ∀ (t0 t1 t2 t3 : Half) (s : State),
    exec (.time t0 t1 t2 t3) s = .next { acceptedWith s s.agg with ts := some s.now }

/-- ACC: `r / 32768 × 16 × 9.8` per axis and hundredths of a degree, exactly or in the BINARY64 order (R89). That
9.8 is itself rounded in BINARY64 is the model's reading (log 8). -/
def Obligations.AccWritesAccelerationAndTemperature : Prop :=
  ∀ (rax ray raz rtemp : Half) (s : State),
    (s.params.numeric = .exact →
      exec (.acc rax ray raz rtemp) s = .next (acceptedWith s { s.agg with
        ax := rax.toInt * (49 / 10240), ay := ray.toInt * (49 / 10240), az := raz.toInt * (49 / 10240),
        temp := rtemp.toInt / 100 })) ∧
    (s.params.numeric = .binary64 →
      let conv := fun r : Half =>
        roundBinary64 (roundBinary64 (roundBinary64 (r.toInt / 32768) * 16) * roundBinary64 (49 / 5))
      exec (.acc rax ray raz rtemp) s = .next (acceptedWith s { s.agg with
        ax := conv rax, ay := conv ray, az := conv raz, temp := roundBinary64 (rtemp.toInt / 100) }))

/-- GYRO: `r / 32768 × 2000` per axis, the fourth field unused (R90). -/
def Obligations.GyroWritesAngularVelocity : Prop :=
  ∀ (rwx rwy rwz rg4 : Half) (s : State),
    (s.params.numeric = .exact →
      exec (.gyro rwx rwy rwz rg4) s = .next (acceptedWith s { s.agg with
        wx := rwx.toInt * (125 / 2048), wy := rwy.toInt * (125 / 2048), wz := rwz.toInt * (125 / 2048) })) ∧
    (s.params.numeric = .binary64 →
      let conv := fun r : Half => roundBinary64 (roundBinary64 (r.toInt / 32768) * 2000)
      exec (.gyro rwx rwy rwz rg4) s = .next (acceptedWith s { s.agg with
        wx := conv rwx, wy := conv rwy, wz := conv rwz }))

/-- ANGLE: `r / 32768 × 180`, the yaw with its sign inverted, the fourth field unused; in BINARY64 a raw yaw of 0, and
no other, gives −0.0 (R91). -/
def Obligations.AngleWritesAttitude : Prop :=
  ∀ (rroll rpitch ryaw ra4 : Half) (s : State),
    (s.params.numeric = .exact →
      exec (.angle rroll rpitch ryaw ra4) s = .next (acceptedWith s { s.agg with
        roll := rroll.toInt * (45 / 8192), pitch := rpitch.toInt * (45 / 8192),
        yaw := -(ryaw.toInt * (45 / 8192)), yawMinusZero := false })) ∧
    (s.params.numeric = .binary64 →
      let conv := fun r : Half => roundBinary64 (roundBinary64 (r.toInt / 32768) * 180)
      exec (.angle rroll rpitch ryaw ra4) s = .next (acceptedWith s { s.agg with
        roll := conv rroll, pitch := conv rpitch, yaw := -(conv ryaw), yawMinusZero := decide (ryaw = 0) }))

/-- MAG: the raw integers, in either numeric domain, the fourth field unused (R92). -/
def Obligations.MagWritesRawField : Prop :=
  ∀ (rmx rmy rmz rm4 : Half) (s : State),
    exec (.mag rmx rmy rmz rm4) s = .next (acceptedWith s { s.agg with
      mx := rmx.toInt, my := rmy.toInt, mz := rmz.toInt })

/-- BARO: hundredths, the pressure from 32 bits and the altitude from 16, the last field unused (R93). -/
def Obligations.BaroWritesPressureAndAltitude : Prop :=
  ∀ (rpress : Word) (ralt rb4 : Half) (s : State),
    (s.params.numeric = .exact →
      exec (.baro rpress ralt rb4) s = .next (acceptedWith s { s.agg with
        pressure := rpress.toInt / 100, baroAlt := ralt.toInt / 100 })) ∧
    (s.params.numeric = .binary64 →
      exec (.baro rpress ralt rb4) s = .next (acceptedWith s { s.agg with
        pressure := roundBinary64 (rpress.toInt / 100), baroAlt := roundBinary64 (ralt.toInt / 100) }))

/-- LONLAT: longitude then latitude, read as DDM or as degrees × 10^7 (R94). That the second reading is one rounded
division in BINARY64 is the model's reading (log 8). -/
def Obligations.LonlatWritesPosition : Prop :=
  ∀ (rlon rlat : Word) (s : State),
    (s.params.latLon = .ddm → s.params.numeric = .exact →
      exec (.lonlat rlon rlat) s = .next (acceptedWith s { s.agg with
        lon := ddmDegrees rlon.toInt, lat := ddmDegrees rlat.toInt })) ∧
    (s.params.latLon = .ddm → s.params.numeric = .binary64 →
      exec (.lonlat rlon rlat) s = .next (acceptedWith s { s.agg with
        lon := ddmBinary64 rlon.toInt, lat := ddmBinary64 rlat.toInt })) ∧
    (s.params.latLon = .degE7 → s.params.numeric = .exact →
      exec (.lonlat rlon rlat) s = .next (acceptedWith s { s.agg with
        lon := rlon.toInt / 10 ^ 7, lat := rlat.toInt / 10 ^ 7 })) ∧
    (s.params.latLon = .degE7 → s.params.numeric = .binary64 →
      exec (.lonlat rlon rlat) s = .next (acceptedWith s { s.agg with
        lon := roundBinary64 (rlon.toInt / 10 ^ 7), lat := roundBinary64 (rlat.toInt / 10 ^ 7) }))

/-- GPSV: tenths; a velocity beyond 200 m/s, that is a raw value beyond ±2000, is stored as 0 (R95, D36). -/
def Obligations.GpsvWritesAltitudeVelocityHeading : Prop :=
  ∀ (rgalt rgvel rghdg rv4 : Half) (s : State),
    (s.params.numeric = .exact →
      exec (.gpsv rgalt rgvel rghdg rv4) s = .next (acceptedWith s { s.agg with
        gpsAlt := rgalt.toInt / 10, gpsVel := if 2000 < |rgvel.toInt| then 0 else rgvel.toInt / 10,
        gpsHdg := rghdg.toInt / 10 })) ∧
    (s.params.numeric = .binary64 →
      let v := roundBinary64 (rgvel.toInt / 10)
      exec (.gpsv rgalt rgvel rghdg rv4) s = .next (acceptedWith s { s.agg with
        gpsAlt := roundBinary64 (rgalt.toInt / 10), gpsVel := if 200 < |v| then 0 else v,
        gpsHdg := roundBinary64 (rghdg.toInt / 10) }))

/-- QUAT: `r / 32768` each, not renormalised (R96). -/
def Obligations.QuatWritesComponents : Prop :=
  ∀ (rq0 rq1 rq2 rq3 : Half) (s : State),
    (s.params.numeric = .exact →
      exec (.quat rq0 rq1 rq2 rq3) s = .next (acceptedWith s { s.agg with
        q0 := rq0.toInt / 32768, q1 := rq1.toInt / 32768, q2 := rq2.toInt / 32768,
        q3 := rq3.toInt / 32768 })) ∧
    (s.params.numeric = .binary64 →
      exec (.quat rq0 rq1 rq2 rq3) s = .next (acceptedWith s { s.agg with
        q0 := roundBinary64 (rq0.toInt / 32768), q1 := roundBinary64 (rq1.toInt / 32768),
        q2 := roundBinary64 (rq2.toInt / 32768), q3 := roundBinary64 (rq3.toInt / 32768) }))

/-- GPSACC: the satellite count as it is, and three hundredths (R97). -/
def Obligations.GpsaccWritesSatellitesAndDops : Prop :=
  ∀ (rsats rpdop rhdop rvdop : Half) (s : State),
    (s.params.numeric = .exact →
      exec (.gpsacc rsats rpdop rhdop rvdop) s = .next (acceptedWith s { s.agg with
        sats := rsats.toInt, pdop := rpdop.toInt / 100, hdop := rhdop.toInt / 100,
        vdop := rvdop.toInt / 100 })) ∧
    (s.params.numeric = .binary64 →
      exec (.gpsacc rsats rpdop rhdop rvdop) s = .next (acceptedWith s { s.agg with
        sats := rsats.toInt, pdop := roundBinary64 (rpdop.toInt / 100),
        hdop := roundBinary64 (rhdop.toInt / 100), vdop := roundBinary64 (rvdop.toInt / 100) }))

/-- The BINARY64 rounding gives a binary64 number nearest to the exact result, and a tie goes to the even
significand (I8, D3). Below the overflow bound: beyond it the value is free (log 9). -/
def Obligations.BinaryRoundingIsToNearestEven : Prop :=
  ∀ x : Rat, |x| < 2 ^ 1024 - 2 ^ 970 →
    (∃ k e : Int, |k| ≤ 2 ^ 53 ∧ -1074 ≤ e ∧ roundBinary64 x = k * (2 : Rat) ^ e ∧
      |x - roundBinary64 x| ≤ (2 : Rat) ^ e / 2 ∧
      (|x - roundBinary64 x| = (2 : Rat) ^ e / 2 → k % 2 = 0)) ∧
    ∀ k e : Int, |k| ≤ 2 ^ 53 → -1074 ≤ e → |x - roundBinary64 x| ≤ |x - k * (2 : Rat) ^ e|

/-! ## The sentence generator -/

/-- Every line of a generation checks: between "$" and the first "*" stand body characters; their exclusive-or,
folded from 0, is an ASCII code; its high and low nibble, as digits 0-9 and A-F, follow the "*"; CR LF ends the
line (R13, R111, R113, R114). -/
def Obligations.LineChecksumIsSelfConsistent : Prop :=
  ∀ (p : Params) (a : Agg) (d : Rat) (now : HostTime), ∀ l ∈ generate p a d now,
    let x := (bodyOfLine l).foldl (fun u v => u ^^^ v) 0#8
    (∀ c ∈ bodyOfLine l, BodyChar c) ∧ x.toNat ≤ 0x7F ∧
      ∃ hi lo : Byte, hexDigits[x.toNat / 16]? = some hi ∧ hexDigits[x.toNat % 16]? = some lo ∧
        l = 0x24#8 :: (bodyOfLine l ++ [0x2A#8, hi, lo, 0x0D#8, 0x0A#8])

/-- What the two checksum functions compute: bit j of `nmea_cs(B)` is the parity of the characters of B with bit j
set, and `hex2` gives the high nibble's and the low nibble's digit, 0-9 or A-F (R111, R13). -/
def Obligations.ChecksumFunctionsComputeXorAndHexDigits : Prop :=
  (∀ (body : Text) (j : Nat), j < 8 →
    (nmeaCs body).getLsbD j = decide (body.countP (fun c => c.getLsbD j) % 2 = 1)) ∧
  ∀ b : Byte, ∃ hi lo : Byte, hexDigits[b.toNat / 16]? = some hi ∧ hexDigits[b.toNat % 16]? = some lo ∧
    hex2 b = [hi, lo]

/-- Each sentence split at its commas is its identifier and the fields of its rule, in order, under the condition
of its rule (R126 to R137), in exact arithmetic; and a generation is, in order, the lines of those bodies whose
condition holds (R138). Where the rules write R118's default counts out, the parameters FMT_DECIMALS stand: the
model's choice (log 13; log 12 for the minutes). -/
def Obligations.SentencesCarryTheFieldsOfTheirRules : Prop :=
  ∀ (p : Params) (a : Agg) (d : Rat) (now : HostTime), p.numeric = .exact →
    let gps := !(decide (a.lat = 0 ∧ a.lon = 0))
    let time := zpad now.hh.val 2 ++ zpad now.mi.val 2 ++ zpad now.ss.val 2 ++ 0x2E#8 :: zpad now.cs.val 2
    let date := zpad now.dd.val 2 ++ zpad now.mo.val 2 ++ zpad now.yy.val 2
    let lat := posField .exact p.decimals.minutes a.lat 2
    let lon := posField .exact p.decimals.minutes a.lon 3
    let ns := if a.lat < 0 then ascii "S" else ascii "N"
    let ew := if a.lon < 0 then ascii "W" else ascii "E"
    let kn := fix (a.gpsVel * (194384 / 100000)) p.decimals.speed
    let track := fix a.gpsHdg p.decimals.track
    let hdgM := if a.yaw < 0 then a.yaw + 360 else a.yaw
    let prn := (List.range 12).map fun i : Nat => if (i : Int) < a.sats then zpad (i + 1) 2 else []
    (sentenceTable p a d now).map (fun e => (e.1, e.2.splitOn 0x2C#8)) =
      [(gps, [ascii "GPGGA", time, lat, ns, lon, ew,
          if a.sats = 0 then ascii "0" else ascii "1", zpad a.sats 2, fix a.hdop p.decimals.dop,
          fix a.gpsAlt p.decimals.gpsAlt, ascii "M", [], ascii "M", [], []]),
       (gps, [ascii "GPRMC", time, if a.sats = 0 then ascii "V" else ascii "A", lat, ns,
          lon, ew, kn, track, date, fix |d| p.decimals.variation,
          if d < 0 then ascii "W" else ascii "E"]),
       (!(decide (a.gpsVel = 0)), [ascii "GPVTG", track, ascii "T", track, ascii "M", kn, ascii "N",
          fix (a.gpsVel * (18 / 5)) p.decimals.speed, ascii "K"]),
       (gps, [ascii "GPGSA", ascii "A", if a.sats = 0 then ascii "1" else ascii "3"] ++ prn ++
          [fix a.pdop p.decimals.dop, fix a.hdop p.decimals.dop, fix a.vdop p.decimals.dop]),
       (true, [ascii "HCHDM", fix hdgM p.decimals.heading, ascii "M"]),
       (true, [ascii "HCHDT", fix (hdgM + d - 360 * ⌊(hdgM + d) / 360⌋) p.decimals.heading, ascii "T"]),
       (true, [ascii "TIROT", fix (a.wz * 60) p.decimals.rateOfTurn, ascii "A"]),
       (true, [ascii "IIXDR", ascii "A", fix a.pitch p.decimals.attitude, ascii "D", ascii "PTCH"]),
       (true, [ascii "IIXDR", ascii "A", fix a.roll p.decimals.attitude, ascii "D", ascii "ROLL"]),
       (true, [ascii "IIXDR", ascii "P", fix (a.pressure / 1000) p.decimals.pressure, ascii "B", ascii "BARO"]),
       (true, [ascii "IIXDR", ascii "C", fix a.temp p.decimals.temp, ascii "C", ascii "TEMP"]),
       (true, [ascii "IIXDR", ascii "G", fix a.ax p.decimals.accel, [], ascii "ACCX"]),
       (true, [ascii "IIXDR", ascii "G", fix a.ay p.decimals.accel, [], ascii "ACCY"]),
       (true, [ascii "IIXDR", ascii "G", fix a.az p.decimals.accel, [], ascii "ACCZ"])] ∧
    generate p a d now = ((sentenceTable p a d now).filter fun e => e.1).map fun e => sentenceLine e.2

/-- The order of a generation: GGA and RMC with a position, VTG with a velocity, GSA with a position, then the ten
others; an accepted frame appends them to `out` in this order (R125, R138). -/
def Obligations.GenerationFollowsTheOrder : Prop :=
  (∀ s : State, s.accept.out = s.out ++ generate s.params s.agg s.decl s.now) ∧
  ∀ (p : Params) (a : Agg) (d : Rat) (now : HostTime),
    let position := ¬(a.lat = 0 ∧ a.lon = 0)
    generate p a d now =
      ((if position then [bodyGGA p a now, bodyRMC p a d now] else []) ++
        (if a.gpsVel ≠ 0 then [bodyVTG p a] else []) ++
        (if position then [bodyGSA p a] else []) ++
        [bodyHDM p a, bodyHDT p a d, bodyROT p a, bodyPitch p a, bodyRoll p a, bodyBaro p a, bodyTemp p a,
          bodyAccX p a, bodyAccY p a, bodyAccZ p a]).map sentenceLine

/-- A generation is the lines of the sentences whose condition holds, in the order of the table; so it has 10, 11,
13 or 14 lines (R138, R139). -/
def Obligations.GenerationHasTenToFourteenLines : Prop :=
  ∀ (p : Params) (a : Agg) (d : Rat) (now : HostTime),
    (generate p a d now).length =
      10 + (if a.lat = 0 ∧ a.lon = 0 then 0 else 3) + (if a.gpsVel = 0 then 0 else 1)

/-- With zero position and zero velocity only the ten always-on sentences come out, in order (R140). -/
def Obligations.ZeroPositionAndVelocitySuppressTheGpsLines : Prop :=
  ∀ (p : Params) (a : Agg) (d : Rat) (now : HostTime), a.lat = 0 → a.lon = 0 → a.gpsVel = 0 →
    generate p a d now =
      [bodyHDM p a, bodyHDT p a d, bodyROT p a, bodyPitch p a, bodyRoll p a, bodyBaro p a, bodyTemp p a,
        bodyAccX p a, bodyAccY p a, bodyAccZ p a].map sentenceLine

/-- Right after reset, whatever the declination and time since, an accepted frame other than LONLAT and GPSV gives
exactly ten lines (R174, the spec's own derivation). -/
def Obligations.FirstFramesAfterResetGiveTenLines : Prop :=
  ∀ (i : Instr) (s : State), s.agg = Agg.zero → (∀ a b, i ≠ .lonlat a b) → (∀ a b c d, i ≠ .gpsv a b c d) →
    ∃ t, exec i s = .next t ∧ t.out.length = s.out.length + 10

/-- The true heading lies in [0, 360) for every declination, in either numeric domain, and in exact arithmetic it is
the magnetic heading plus the declination up to whole turns (R123). -/
def Obligations.TrueHeadingIsWrapped : Prop :=
  ∀ (a : Agg) (d : Rat),
    (∀ m : Numeric, 0 ≤ trueHeading m a d ∧ trueHeading m a d < 360) ∧
      ∃ k : Int, trueHeading .exact a d = magHeading .exact a + d - 360 * k

/-- The derived quantities in BINARY64: each product and each sum rounded once, the constants rounded too (log 8), and
the modulo of the rounded sum not rounded again (log 11); the model's reading of R121 to R124. -/
def Obligations.BinaryDerivedQuantitiesRoundEachOperation : Prop :=
  ∀ (a : Agg) (d : Rat),
    knots .binary64 a = roundBinary64 (a.gpsVel * roundBinary64 (194384 / 100000)) ∧
    kmh .binary64 a = roundBinary64 (a.gpsVel * roundBinary64 (18 / 5)) ∧
    magHeading .binary64 a = (if a.yaw < 0 then roundBinary64 (a.yaw + 360) else a.yaw) ∧
    (∃ k : Int, trueHeading .binary64 a d = roundBinary64 (magHeading .binary64 a + d) - 360 * k) ∧
    rateOfTurn .binary64 a = roundBinary64 (a.wz * 60)

/-- The magnetic heading is the yaw, 360 added when it is negative; for a yaw in the range ANGLE frames give it lies
in [0, 360) (R122), in exact arithmetic. -/
def Obligations.MagneticHeadingIsWrapped : Prop :=
  ∀ a : Agg,
    magHeading .exact a = (if a.yaw < 0 then a.yaw + 360 else a.yaw) ∧
      (-180 < a.yaw → a.yaw ≤ 180 → 0 ≤ magHeading .exact a ∧ magHeading .exact a < 360)

/-- What `fix(x, k)` prints: a sign exactly when x is negative, whole digits without a needless leading zero, and,
if k is not 0, a point and k more digits; read without the point they are the integer nearest to |x| × 10^k, the
even one in a tie (R115). -/
def Obligations.FixPrintsTheNearestDecimal : Prop :=
  ∀ (x : Rat) (k : Nat), ∃ whole part : Text,
    fix x k = (if x < 0 then [0x2D#8] else []) ++ whole ++ (if k = 0 then [] else 0x2E#8 :: part) ∧
    (∀ c ∈ whole ++ part, isDigit c = true) ∧ part.length = k ∧ whole ≠ [] ∧
    (1 < whole.length → whole.head? ≠ some 0x30#8) ∧
    |(readDigits (whole ++ part) : Rat) - |x| * 10 ^ k| ≤ 1 / 2 ∧
    (|(readDigits (whole ++ part) : Rat) - |x| * 10 ^ k| = 1 / 2 → readDigits (whole ++ part) % 2 = 0)

/-- What `zpad(n, w)` prints: a sign exactly when n is negative, then digits that spell |n|, at least w characters
in all, and no leading zero beyond what that needs (R116). -/
def Obligations.ZpadPrintsTheInteger : Prop :=
  ∀ (n : Int) (w : Nat), ∃ digits : Text,
    zpad n w = (if n < 0 then [0x2D#8] else []) ++ digits ∧ (∀ c ∈ digits, isDigit c = true) ∧
    readDigits digits = n.natAbs ∧ digits ≠ [] ∧ w ≤ (zpad n w).length ∧
    (w < (zpad n w).length → 1 < digits.length → digits.head? ≠ some 0x30#8)

/-- A position field with `k` decimals of the minutes (4 in R119): whole degrees in at least dw digits and no leading
zero beyond what that needs; then minutes as two digits and, if k is not 0, a point and k digits, the nearest
decimal, the even one in a tie; no carry, so 60 minutes may stand (R119), in exact arithmetic. That the two digits
stay at another count than 4 is the model's choice (log 12). -/
def Obligations.PositionFieldIsDegreesAndMinutes : Prop :=
  ∀ (k : Nat) (x : Rat) (dw : Nat), ∃ deg m1 m2 : Text,
    let minutes := (|x| - ⌊|x|⌋) * 60
    let printed := readDigits (m1 ++ m2)
    posField .exact k x dw = deg ++ m1 ++ (if k = 0 then [] else 0x2E#8 :: m2) ∧
    (∀ c ∈ deg ++ m1 ++ m2, isDigit c = true) ∧
    deg ≠ [] ∧ dw ≤ deg.length ∧ (dw < deg.length → 1 < deg.length → deg.head? ≠ some 0x30#8) ∧
    m1.length = 2 ∧ m2.length = k ∧ (readDigits deg : Int) = ⌊|x|⌋ ∧
    |(printed : Rat) - minutes * 10 ^ k| ≤ 1 / 2 ∧
    (|(printed : Rat) - minutes * 10 ^ k| = 1 / 2 → printed % 2 = 0) ∧ printed ≤ 60 * 10 ^ k

/-- The satellite placeholders: twelve fields, the first max(0, min(sats, 12)) of them the two decimal digits of 01..,
the others empty (R130). -/
def Obligations.PlaceholdersCountTheSatellites : Prop :=
  ∀ n : Int, (prnFields n).length = 12 ∧
    ∀ i : Nat, i < 12 →
      ((i : Int) < max 0 (min n 12) →
        ∃ t, (prnFields n)[i]? = some t ∧ t.length = 2 ∧ (∀ c ∈ t, isDigit c = true) ∧ readDigits t = i + 1) ∧
      (max 0 (min n 12) ≤ (i : Int) → (prnFields n)[i]? = some [])

/-- The generation from one aggregate, declination and time, those the spec's full sensor cycle ends with, is the
fourteen lines the spec lists for them; no frame is run (95, VN8). -/
def Obligations.EndAggregateOfFullCycleGivesItsFourteenLines : Prop :=
  generate .default { Agg.zero with
      ax := 392 / 5, ay := -196 / 5, temp := 25, wz := -5125 / 512, roll := 20475 / 2048,
      pitch := -20475 / 4096, yaw := -50625 / 1024, pressure := 4053 / 4, baroAlt := 617 / 50,
      lon := -367172839 / 3000000, lat := 37507613 / 1000000, gpsAlt := 123 / 10, gpsVel := 5,
      gpsHdg := 228 / 5, sats := 8, pdop := 3 / 2, hdop := 9 / 10, vdop := 6 / 5 } (27 / 2)
      { hh := 12, mi := 34, ss := 56, cs := 78, dd := ⟨11, by decide⟩, mo := ⟨11, by decide⟩, yy := 26 } =
    ["$GPGGA,123456.78,3730.4568,N,12223.4568,W,1,08,0.90,12.3,M,,M,,*6E",
     "$GPRMC,123456.78,A,3730.4568,N,12223.4568,W,9.7,45.6,111126,13.5,E*4F",
     "$GPVTG,45.6,T,45.6,M,9.7,N,18.0,K*79",
     "$GPGSA,A,3,01,02,03,04,05,06,07,08,,,,,1.50,0.90,1.20*04",
     "$HCHDM,310.6,M*2D",
     "$HCHDT,324.1,T*2D",
     "$TIROT,-600.6,A*16",
     "$IIXDR,A,-5.0,D,PTCH*42",
     "$IIXDR,A,10.0,D,ROLL*49",
     "$IIXDR,P,1.01325,B,BARO*68",
     "$IIXDR,C,25.00,C,TEMP*6B",
     "$IIXDR,G,78.40,,ACCX*35",
     "$IIXDR,G,-39.20,,ACCY*1A",
     "$IIXDR,G,0.00,,ACCZ*0C"].map fun l => ascii l ++ [0x0D#8, 0x0A#8]
end

