-- ==== Sys2Proof/Laws/Decode.lean ====
section
/-!
SUPPORT. Lemmas about frames: fields and their bytes, the checksum, and the shape of an encoded frame.
-/

namespace Sys2Proof

theorem joinBytes_toNat (lo hi : Byte) : (joinBytes lo hi).toNat = lo.toNat + 256 * hi.toNat := by
  simp only [joinBytes, BitVec.toNat_append]
  rw [← Nat.shiftLeft_add_eq_or_of_lt lo.isLt, Nat.shiftLeft_eq]
  omega

theorem joinHalves_toNat (lo hi : Half) : (joinHalves lo hi).toNat = lo.toNat + 65536 * hi.toNat := by
  simp only [joinHalves, BitVec.toNat_append]
  rw [← Nat.shiftLeft_add_eq_or_of_lt lo.isLt, Nat.shiftLeft_eq]
  omega

/-- R10: `u16le(f, o) = f[o] + 256 · f[o+1]`. -/
theorem u16le_toNat (f : Frame) (o : Nat) :
    (u16le f o).toNat = (byteAt f o).toNat + 256 * (byteAt f (o + 1)).toNat := joinBytes_toNat _ _

/-- R10: `u32le(f, o)` is the four bytes with weights 1, 2^8, 2^16, 2^24. -/
theorem u32le_toNat (f : Frame) (o : Nat) :
    (u32le f o).toNat = (byteAt f o).toNat + 2 ^ 8 * (byteAt f (o + 1)).toNat +
      2 ^ 16 * (byteAt f (o + 2)).toNat + 2 ^ 24 * (byteAt f (o + 3)).toNat := by
  rw [u32le, joinHalves_toNat, u16le_toNat, u16le_toNat, show o + 2 + 1 = o + 3 from rfl]
  omega

/-- A 16-bit field is its two bytes joined. -/
@[simp] theorem joinBytes_of_half (x : Half) : joinBytes (x.extractLsb' 0 8) (x.extractLsb' 8 8) = x := by
  apply BitVec.eq_of_toNat_eq
  have := x.isLt
  simp only [joinBytes_toNat, BitVec.extractLsb'_toNat, Nat.shiftRight_eq_div_pow]
  omega

/-- A 32-bit field is its four bytes joined. -/
@[simp] theorem joinHalves_of_word (x : Word) :
    joinHalves (joinBytes (x.extractLsb' 0 8) (x.extractLsb' 8 8))
      (joinBytes (x.extractLsb' 16 8) (x.extractLsb' 24 8)) = x := by
  apply BitVec.eq_of_toNat_eq
  have := x.isLt
  simp only [joinHalves_toNat, joinBytes_toNat, BitVec.extractLsb'_toNat, Nat.shiftRight_eq_div_pow]
  omega

/-- The bytes of a 16-bit field joined from two. -/
@[simp] theorem halfBytes_joinBytes (lo hi : Byte) : halfBytes (joinBytes lo hi) = [lo, hi] := by
  have := lo.isLt
  have := hi.isLt
  simp only [halfBytes, List.cons.injEq, and_true]
  constructor <;> apply BitVec.eq_of_toNat_eq <;>
    simp only [BitVec.extractLsb'_toNat, joinBytes_toNat, Nat.shiftRight_eq_div_pow] <;> omega

/-- The bytes of a 32-bit field joined from two halves. -/
@[simp] theorem wordBytes_joinHalves (lo hi : Half) :
    wordBytes (joinHalves lo hi) = halfBytes lo ++ halfBytes hi := by
  have := lo.isLt
  have := hi.isLt
  simp only [wordBytes, halfBytes, List.cons_append, List.nil_append, List.cons.injEq, and_true]
  refine ⟨?_, ?_, ?_, ?_⟩ <;> apply BitVec.eq_of_toNat_eq <;>
    simp only [BitVec.extractLsb'_toNat, joinHalves_toNat, Nat.shiftRight_eq_div_pow] <;> omega

/-- The sum of bytes as a byte is the sum of their values modulo 256. -/
theorem sum_toNat (l : List Byte) : l.sum.toNat = (l.map BitVec.toNat).sum % 256 := by
  induction l with
  | nil => rfl
  | cons b l ih =>
    simp only [List.sum_cons, List.map_cons, BitVec.toNat_add, ih]
    omega

/-- R57 on integers. -/
theorem ck_toNat (f : Frame) : (ck f).toNat = ((f.take 10).map BitVec.toNat).sum % 256 := sum_toNat _

/-- The checksum reads only the first ten bytes. -/
theorem ck_append (body rest : List Byte) (h : body.length = 10) : ck (body ++ rest) = ck body := by
  simp [ck, h, List.take_of_length_le]

/-- A sealed frame of an eight-byte payload has eleven bytes. -/
theorem sealFrame_length (t : Byte) (p : List Byte) (h : p.length = 8) : (sealFrame t p).length = 11 := by
  simp [sealFrame, h]

/-- A sealed frame passes the length, header and checksum checks, and the tag check if its tag does. -/
theorem sealFrame_wellFormed (t : Byte) (p : List Byte) (h : p.length = 8)
    (ht : (0x50 ≤ t.toNat && t.toNat ≤ 0x55) || (0x57 ≤ t.toNat && t.toNat ≤ 0x5A)) :
    Frame.wellFormed (sealFrame t p) = true := by
  have hb : (header :: t :: p).length = 10 := by simp [h]
  have ht10 : (sealFrame t p).take 10 = header :: t :: p := by
    simp [sealFrame, h]
  have h10 : (sealFrame t p)[10]? = some (ck (header :: t :: p)) := by
    simp [sealFrame, h]
  have hck := ck_toNat (header :: t :: p)
  rw [List.take_of_length_le (by omega)] at hck
  simp only [Frame.wellFormed, Bool.and_eq_true]
  refine ⟨⟨⟨?_, ?_⟩, ?_⟩, ?_⟩
  · simp [Frame.lengthOk, sealFrame_length t p h]
  · simp [Frame.headerOk, sealFrame, header]
  · simp only [Frame.checksumOk, h10, ht10, Option.map_some, hck, beq_self_eq_true]
  · simpa [Frame.tagOk, sealFrame] using ht

@[simp] theorem fourHalves_length (a b c d : Half) : (fourHalves a b c d).length = 8 := rfl

@[simp] theorem wordBytes_length (x : Word) : (wordBytes x).length = 4 := rfl

@[simp] theorem halfBytes_length (x : Half) : (halfBytes x).length = 2 := rfl

end Sys2Proof
end

