-- ==== Sys2Proof/Laws/Numeric.lean ====
section
/-!
SUPPORT. Lemmas about the two numeric domains: exact arithmetic rounds nothing, and what the parts of the binary64
rounding are.
-/

namespace Sys2Proof.Machine

@[simp] theorem rounded_exact (x : Rat) : rounded .exact x = x := rfl
@[simp] theorem rounded_binary64 (x : Rat) : rounded .binary64 x = roundBinary64 x := rfl
@[simp] theorem litN_exact (x : Rat) : litN .exact x = x := rfl
@[simp] theorem addN_exact (x y : Rat) : addN .exact x y = x + y := rfl
@[simp] theorem subN_exact (x y : Rat) : subN .exact x y = x - y := rfl
@[simp] theorem mulN_exact (x y : Rat) : mulN .exact x y = x * y := rfl
@[simp] theorem divN_exact (x y : Rat) : divN .exact x y = x / y := rfl
@[simp] theorem minusZero_exact (x : Rat) : minusZero .exact x = false := rfl
@[simp] theorem minusZero_binary64 (x : Rat) : minusZero .binary64 x = decide (x = 0) := by simp [minusZero]

/-- `qabs` is the absolute value. -/
theorem qabs_eq_abs (x : Rat) : qabs x = |x| := by
  unfold qabs
  split
  · next h => rw [abs_of_neg h]
  · next h => rw [abs_of_nonneg (not_lt.mp h)]

theorem qabs_nonneg (x : Rat) : 0 ≤ qabs x := by
  rw [qabs_eq_abs]; exact abs_nonneg x

/-- The distance to the floor. -/
theorem floor_spec (x : Rat) : (x.floor : Rat) ≤ x ∧ x < (x.floor : Rat) + 1 :=
  ⟨Int.floor_le x, Int.lt_floor_add_one x⟩

/-- The floored modulo: its range, and that it differs by a multiple (R9). -/
theorem floorMod_spec (x y : Rat) (h : 0 < y) :
    0 ≤ floorMod x y ∧ floorMod x y < y ∧ floorMod x y = x - y * (x / y).floor := by
  obtain ⟨h1, h2⟩ := floor_spec (x / y)
  rw [le_div_iff₀ h] at h1
  rw [div_lt_iff₀ h] at h2
  unfold floorMod
  exact ⟨by linarith, by linarith, rfl⟩

/-- Rounding to the nearest integer, a tie to the even one (R115). -/
theorem roundHalfEven_spec (x : Rat) :
    |x - roundHalfEven x| ≤ 1 / 2 ∧ (|x - roundHalfEven x| = 1 / 2 → roundHalfEven x % 2 = 0) := by
  obtain ⟨h1, h2⟩ := floor_spec x
  unfold roundHalfEven
  simp only
  split
  · next h => rw [abs_of_nonneg (by linarith)]; exact ⟨h.le, fun e => absurd e h.ne⟩
  · split
    · next h =>
      push_cast
      rw [abs_of_neg (by linarith)]
      exact ⟨by linarith, fun e => by linarith⟩
    · next h3 h4 =>
      have h5 : x - x.floor = 1 / 2 := le_antisymm (not_lt.mp h4) (not_lt.mp h3)
      split
      · next h6 => rw [h5]; norm_num [h6]
      · next h6 =>
        have h7 : x - ((x.floor + 1 : Int) : Rat) = -(1 / 2) := by push_cast; linarith
        rw [h7]
        norm_num
        omega

theorem roundHalfEven_nonneg (x : Rat) (h : 0 ≤ x) : 0 ≤ roundHalfEven x := by
  have h0 : (0 : Int) ≤ x.floor := Int.floor_nonneg.mpr h
  unfold roundHalfEven
  simp only
  split
  · exact h0
  · split
    · omega
    · split <;> omega

/-- `pow2` is the power of two. -/
theorem pow2_eq (e : Int) : pow2 e = (2 : Rat) ^ e := by
  cases e with
  | ofNat n => simp [pow2, Rat.mkRat_eq_div]
  | negSucc n => simp [pow2, Rat.mkRat_eq_div, zpow_negSucc]

theorem pow2_pos (e : Int) : 0 < pow2 e := by
  rw [pow2_eq]; positivity

/-- `binExponent` is the binary exponent. -/
theorem binExponent_spec (x : Rat) (h : 0 < x) :
    pow2 (binExponent x) ≤ x ∧ x < pow2 (binExponent x + 1) := by
  have hn : 0 < x.num := Rat.num_pos.mpr h
  have hn0 : x.num.natAbs ≠ 0 := by omega
  have hd0 : x.den ≠ 0 := x.den_nz
  have hx : x = (x.num.natAbs : Rat) / (x.den : Rat) := by
    conv_lhs => rw [← Rat.num_div_den x]
    congr 1
    have h1 : (x.num.natAbs : Int) = x.num := Int.natAbs_of_nonneg hn.le
    rw [← Int.cast_natCast (R := Rat), h1]
  have hdp : (0 : Rat) < x.den := by exact_mod_cast Nat.pos_of_ne_zero hd0
  have n1 : ((2 : Rat) ^ (x.num.natAbs.log2)) ≤ x.num.natAbs := by exact_mod_cast Nat.log2_self_le hn0
  have n2 : (x.num.natAbs : Rat) < (2 : Rat) ^ (x.num.natAbs.log2 + 1) := by
    exact_mod_cast (Nat.lt_log2_self (n := x.num.natAbs))
  have d1 : ((2 : Rat) ^ (x.den.log2)) ≤ x.den := by exact_mod_cast Nat.log2_self_le hd0
  have d2 : (x.den : Rat) < (2 : Rat) ^ (x.den.log2 + 1) := by
    exact_mod_cast (Nat.lt_log2_self (n := x.den))
  set a := x.num.natAbs.log2
  set b := x.den.log2
  have hi : x < (2 : Rat) ^ ((a : Int) - b + 1) := by
    have e : (2 : Rat) ^ ((a : Int) - b + 1) = 2 ^ (a + 1) / 2 ^ b := by
      rw [show (a : Int) - b + 1 = ((a + 1 : Nat) : Int) - (b : Nat) by push_cast; ring,
        zpow_sub₀ (by norm_num), zpow_natCast, zpow_natCast]
    rw [e, hx, div_lt_div_iff₀ hdp (by positivity)]
    calc _ ≤ (x.num.natAbs : Rat) * x.den := by gcongr
      _ < _ := by gcongr
  have lo : (2 : Rat) ^ ((a : Int) - b - 1) ≤ x := by
    have e : (2 : Rat) ^ ((a : Int) - b - 1) = 2 ^ a / 2 ^ (b + 1) := by
      rw [show (a : Int) - b - 1 = (a : Int) - ((b + 1 : Nat) : Int) by push_cast; ring,
        zpow_sub₀ (by norm_num), zpow_natCast, zpow_natCast]
    rw [e, hx, div_le_div_iff₀ (by positivity) hdp]
    gcongr
  unfold binExponent
  simp only [pow2_eq]
  split
  · next hc => exact ⟨hc, hi⟩
  · next hc => exact ⟨lo, by rw [sub_add_cancel]; exact not_le.mp hc⟩

end Sys2Proof.Machine
end

