-- ==== Sys2Proof/Laws/State.lean ====
section
/-!
SUPPORT. One lemma per field per update of the state, so that no later proof unfolds a record update.
-/

namespace Sys2Proof.Machine

variable (s : State)

@[simp] theorem State.quiet_sync : s.quiet.sync = s.sync := rfl
@[simp] theorem State.quiet_buf : s.quiet.buf = s.buf := rfl
@[simp] theorem State.quiet_agg : s.quiet.agg = s.agg := rfl
@[simp] theorem State.quiet_ts : s.quiet.ts = s.ts := rfl
@[simp] theorem State.quiet_decl : s.quiet.decl = s.decl := rfl
@[simp] theorem State.quiet_out : s.quiet.out = s.out := rfl
@[simp] theorem State.quiet_now : s.quiet.now = s.now := rfl
@[simp] theorem State.quiet_input : s.quiet.input = s.input := rfl
@[simp] theorem State.quiet_verdict : s.quiet.verdict = none := rfl
@[simp] theorem State.quiet_candidate : s.quiet.candidate = none := rfl
@[simp] theorem State.quiet_params : s.quiet.params = s.params := rfl

@[simp] theorem State.advance_sync (rest : List HostOp) : (s.advance rest).sync = s.sync := rfl
@[simp] theorem State.advance_buf (rest : List HostOp) : (s.advance rest).buf = s.buf := rfl
@[simp] theorem State.advance_agg (rest : List HostOp) : (s.advance rest).agg = s.agg := rfl
@[simp] theorem State.advance_ts (rest : List HostOp) : (s.advance rest).ts = s.ts := rfl
@[simp] theorem State.advance_decl (rest : List HostOp) : (s.advance rest).decl = s.decl := rfl
@[simp] theorem State.advance_out (rest : List HostOp) : (s.advance rest).out = s.out := rfl
@[simp] theorem State.advance_now (rest : List HostOp) : (s.advance rest).now = s.now := rfl
@[simp] theorem State.advance_input (rest : List HostOp) : (s.advance rest).input = rest := rfl
@[simp] theorem State.advance_verdict (rest : List HostOp) : (s.advance rest).verdict = none := rfl
@[simp] theorem State.advance_candidate (rest : List HostOp) : (s.advance rest).candidate = none := rfl
@[simp] theorem State.advance_params (rest : List HostOp) : (s.advance rest).params = s.params := rfl

@[simp] theorem State.offer_sync (f : Frame) : (s.offer f).sync = s.sync := rfl
@[simp] theorem State.offer_buf (f : Frame) : (s.offer f).buf = s.buf := rfl
@[simp] theorem State.offer_agg (f : Frame) : (s.offer f).agg = s.agg := rfl
@[simp] theorem State.offer_ts (f : Frame) : (s.offer f).ts = s.ts := rfl
@[simp] theorem State.offer_decl (f : Frame) : (s.offer f).decl = s.decl := rfl
@[simp] theorem State.offer_out (f : Frame) : (s.offer f).out = s.out := rfl
@[simp] theorem State.offer_now (f : Frame) : (s.offer f).now = s.now := rfl
@[simp] theorem State.offer_input (f : Frame) : (s.offer f).input = s.input := rfl
@[simp] theorem State.offer_verdict (f : Frame) : (s.offer f).verdict = s.verdict := rfl
@[simp] theorem State.offer_candidate (f : Frame) : (s.offer f).candidate = some f := rfl
@[simp] theorem State.offer_params (f : Frame) : (s.offer f).params = s.params := rfl

@[simp] theorem State.accept_sync : s.accept.sync = s.sync := rfl
@[simp] theorem State.accept_buf : s.accept.buf = s.buf := rfl
@[simp] theorem State.accept_agg : s.accept.agg = s.agg := rfl
@[simp] theorem State.accept_ts : s.accept.ts = s.ts := rfl
@[simp] theorem State.accept_decl : s.accept.decl = s.decl := rfl
@[simp] theorem State.accept_out : s.accept.out = s.out ++ generate s.params s.agg s.decl s.now := rfl
@[simp] theorem State.accept_now : s.accept.now = s.now := rfl
@[simp] theorem State.accept_input : s.accept.input = s.input := rfl
@[simp] theorem State.accept_verdict : s.accept.verdict = some .ok := rfl
@[simp] theorem State.accept_candidate : s.accept.candidate = s.candidate := rfl
@[simp] theorem State.accept_params : s.accept.params = s.params := rfl

@[simp] theorem State.reject_sync (e : DecodeError) : (s.reject e).sync = s.sync := rfl
@[simp] theorem State.reject_buf (e : DecodeError) : (s.reject e).buf = s.buf := rfl
@[simp] theorem State.reject_agg (e : DecodeError) : (s.reject e).agg = s.agg := rfl
@[simp] theorem State.reject_ts (e : DecodeError) : (s.reject e).ts = s.ts := rfl
@[simp] theorem State.reject_decl (e : DecodeError) : (s.reject e).decl = s.decl := rfl
@[simp] theorem State.reject_out (e : DecodeError) : (s.reject e).out = s.out := rfl
@[simp] theorem State.reject_now (e : DecodeError) : (s.reject e).now = s.now := rfl
@[simp] theorem State.reject_input (e : DecodeError) : (s.reject e).input = s.input := rfl
@[simp] theorem State.reject_verdict (e : DecodeError) : (s.reject e).verdict = some (.error e) := rfl
@[simp] theorem State.reject_candidate (e : DecodeError) : (s.reject e).candidate = s.candidate := rfl
@[simp] theorem State.reject_params (e : DecodeError) : (s.reject e).params = s.params := rfl

@[simp] theorem State.setDecl_sync (d : Rat) : (s.setDecl d).sync = s.sync := rfl
@[simp] theorem State.setDecl_buf (d : Rat) : (s.setDecl d).buf = s.buf := rfl
@[simp] theorem State.setDecl_agg (d : Rat) : (s.setDecl d).agg = s.agg := rfl
@[simp] theorem State.setDecl_ts (d : Rat) : (s.setDecl d).ts = s.ts := rfl
@[simp] theorem State.setDecl_decl (d : Rat) : (s.setDecl d).decl = d := rfl
@[simp] theorem State.setDecl_out (d : Rat) : (s.setDecl d).out = s.out := rfl
@[simp] theorem State.setDecl_now (d : Rat) : (s.setDecl d).now = s.now := rfl
@[simp] theorem State.setDecl_input (d : Rat) : (s.setDecl d).input = s.input := rfl
@[simp] theorem State.setDecl_verdict (d : Rat) : (s.setDecl d).verdict = s.verdict := rfl
@[simp] theorem State.setDecl_candidate (d : Rat) : (s.setDecl d).candidate = s.candidate := rfl
@[simp] theorem State.setDecl_params (d : Rat) : (s.setDecl d).params = s.params := rfl

@[simp] theorem State.setTime_sync (t : HostTime) : (s.setTime t).sync = s.sync := rfl
@[simp] theorem State.setTime_buf (t : HostTime) : (s.setTime t).buf = s.buf := rfl
@[simp] theorem State.setTime_agg (t : HostTime) : (s.setTime t).agg = s.agg := rfl
@[simp] theorem State.setTime_ts (t : HostTime) : (s.setTime t).ts = s.ts := rfl
@[simp] theorem State.setTime_decl (t : HostTime) : (s.setTime t).decl = s.decl := rfl
@[simp] theorem State.setTime_out (t : HostTime) : (s.setTime t).out = s.out := rfl
@[simp] theorem State.setTime_now (t : HostTime) : (s.setTime t).now = t := rfl
@[simp] theorem State.setTime_input (t : HostTime) : (s.setTime t).input = s.input := rfl
@[simp] theorem State.setTime_verdict (t : HostTime) : (s.setTime t).verdict = s.verdict := rfl
@[simp] theorem State.setTime_candidate (t : HostTime) : (s.setTime t).candidate = s.candidate := rfl
@[simp] theorem State.setTime_params (t : HostTime) : (s.setTime t).params = s.params := rfl

@[simp] theorem State.resetBlock_sync : s.resetBlock.sync = false := rfl
@[simp] theorem State.resetBlock_buf : s.resetBlock.buf = [] := rfl
@[simp] theorem State.resetBlock_agg : s.resetBlock.agg = .zero := rfl
@[simp] theorem State.resetBlock_ts : s.resetBlock.ts = none := rfl
@[simp] theorem State.resetBlock_decl : s.resetBlock.decl = 0 := rfl
@[simp] theorem State.resetBlock_out : s.resetBlock.out = [] := rfl
@[simp] theorem State.resetBlock_now : s.resetBlock.now = s.now := rfl
@[simp] theorem State.resetBlock_input : s.resetBlock.input = s.input := rfl
@[simp] theorem State.resetBlock_verdict : s.resetBlock.verdict = none := rfl
@[simp] theorem State.resetBlock_candidate : s.resetBlock.candidate = none := rfl
@[simp] theorem State.resetBlock_params : s.resetBlock.params = s.params := rfl

@[simp] theorem State.awaitLast_sync (f : Frame) : (s.awaitLast f).sync = true := rfl
@[simp] theorem State.awaitLast_buf (f : Frame) : (s.awaitLast f).buf = f.take 10 := rfl
@[simp] theorem State.awaitLast_agg (f : Frame) : (s.awaitLast f).agg = s.agg := rfl
@[simp] theorem State.awaitLast_ts (f : Frame) : (s.awaitLast f).ts = s.ts := rfl
@[simp] theorem State.awaitLast_decl (f : Frame) : (s.awaitLast f).decl = s.decl := rfl
@[simp] theorem State.awaitLast_out (f : Frame) : (s.awaitLast f).out = s.out := rfl
@[simp] theorem State.awaitLast_now (f : Frame) : (s.awaitLast f).now = s.now := rfl
@[simp] theorem State.awaitLast_input (f : Frame) : (s.awaitLast f).input = .deliver (byteAt f 10) :: s.input := rfl
@[simp] theorem State.awaitLast_verdict (f : Frame) : (s.awaitLast f).verdict = s.verdict := rfl
@[simp] theorem State.awaitLast_candidate (f : Frame) : (s.awaitLast f).candidate = s.candidate := rfl
@[simp] theorem State.awaitLast_params (f : Frame) : (s.awaitLast f).params = s.params := rfl

@[simp] theorem acceptedWith_agg (a : Agg) : (acceptedWith s a).agg = a := rfl
@[simp] theorem acceptedWith_out (a : Agg) :
    (acceptedWith s a).out = s.out ++ generate s.params a s.decl s.now := rfl
@[simp] theorem acceptedWith_verdict (a : Agg) : (acceptedWith s a).verdict = some .ok := rfl
@[simp] theorem acceptedWith_sync (a : Agg) : (acceptedWith s a).sync = s.sync := rfl
@[simp] theorem acceptedWith_buf (a : Agg) : (acceptedWith s a).buf = s.buf := rfl
@[simp] theorem acceptedWith_ts (a : Agg) : (acceptedWith s a).ts = s.ts := rfl
@[simp] theorem acceptedWith_decl (a : Agg) : (acceptedWith s a).decl = s.decl := rfl
@[simp] theorem acceptedWith_now (a : Agg) : (acceptedWith s a).now = s.now := rfl
@[simp] theorem acceptedWith_input (a : Agg) : (acceptedWith s a).input = s.input := rfl
@[simp] theorem acceptedWith_candidate (a : Agg) : (acceptedWith s a).candidate = s.candidate := rfl
@[simp] theorem acceptedWith_params (a : Agg) : (acceptedWith s a).params = s.params := rfl

end Sys2Proof.Machine
end

