-- ==== Sys2Proof/Laws/Ops.lean ====
section
/-!
SUPPORT. One lemma per shared operation that says once what it can do; proofs cite these and do not unfold the operation.
-/

namespace Sys2Proof.Machine

/-- Everything a feed can do (R76, R77, R78). -/
theorem feed_cases (b : Byte) (s t : State) (c : Option Frame) (h : feed b s = (t, c)) :
    (s.sync = false ∧ b = header ∧ c = none ∧ t = { s with buf := [b], sync := true }) ∨
    (s.sync = false ∧ b ≠ header ∧ c = none ∧ t = s) ∨
    (s.sync = true ∧ s.buf.length ≤ 9 ∧ c = none ∧ t = { s with buf := s.buf ++ [b] }) ∨
    (s.sync = true ∧ 10 ≤ s.buf.length ∧ c = some (s.buf ++ [b]) ∧ t = { s with buf := [], sync := false }) := by
  unfold feed at h
  split at h
  · next hs =>
    split at h
    · next hb => cases h; exact .inl ⟨hs, hb, rfl, rfl⟩
    · next hb => cases h; exact .inr (.inl ⟨hs, hb, rfl, rfl⟩)
  · next hs =>
    have hs : s.sync = true := by simpa using hs
    split at h
    · next hl => cases h; exact .inr (.inr (.inl ⟨hs, hl, rfl, rfl⟩))
    · next hl => cases h; exact .inr (.inr (.inr ⟨hs, by omega, rfl, rfl⟩))

/-- A drain answers a next state exactly when `out` holds enough lines, and takes only those lines (R159). -/
theorem drain_cases (k : Nat) (s : State) :
    (k ≤ s.out.length ∧ s.drain k = .next { s with out := s.out.drop k }) ∨
    (s.out.length < k ∧ s.drain k = .refused (.drainBeyondOutput k s.out.length)) := by
  unfold State.drain
  split
  · next h => exact .inl ⟨h, rfl⟩
  · next h => exact .inr ⟨by omega, rfl⟩

/-- Every accepted frame writes `agg` or `ts`, gives `OK` and generates; it does nothing else (R48, R75). -/
theorem exec_accepts (i : Instr) (s : State) :
    ∃ a ts, exec i s = .next ({ s with agg := a, ts := ts }.accept) := by
  cases i <;> exact ⟨_, _, rfl⟩

/-- A candidate is either rejected with its error, or run (R85). -/
theorem runCandidate_cases (f : Frame) (s : State) :
    (∃ e, decodeFrame f = .error e ∧ runCandidate f s = .next ((s.offer f).reject e)) ∨
    (∃ i, decodeFrame f = .ok i ∧ runCandidate f s = exec i (s.offer f)) := by
  unfold runCandidate
  cases h : decodeFrame f with
  | error e => exact .inl ⟨e, rfl, rfl⟩
  | ok i => exact .inr ⟨i, rfl, rfl⟩

/-- A block step always answers a next state: the candidate's if a frame completed, the feed's otherwise (R75,
R155). -/
theorem blockStep_cases (b : Byte) (s : State) :
    (∃ t, feed b s = (t, none) ∧ blockStep b s = .next t) ∨
    (∃ t f, feed b s = (t, some f) ∧ blockStep b s = runCandidate f t) := by
  unfold blockStep
  rcases h : feed b s with ⟨t, _ | f⟩
  · exact .inl ⟨t, rfl, rfl⟩
  · exact .inr ⟨t, f, rfl, rfl⟩

/-- The step by the host's next operation. -/
theorem step_of_input_nil (s : State) (h : s.input = []) : step s = .next s.quiet := by
  simp [step, hostMove, h]

theorem step_of_input_cons (s : State) (op : HostOp) (rest : List HostOp) (h : s.input = op :: rest) :
    step s = hostOp op (s.advance rest) := by
  simp [step, hostMove, h]

/-- A run of one step more, for any machine of the host's interface: name the machine when citing it. -/
theorem run_of_step {M : Host.Core} (k : Nat) (s t : M.State) (h : M.step s = .next t) :
    M.run (k + 1) s = M.run k t := by
  rw [Host.Core.run, h]

end Sys2Proof.Machine
end

