-- ==== Sys2Proof/Laws/PerInstr.lean ====
section
/-!
SUPPORT. The statement family made per constructor of `Instr`: what the encoder gives is a frame of R55.
-/

namespace Sys2Proof.Laws

/-- The encoder's output is a well-formed frame. -/
def EncodedFrame.Statement (i : Instr) : Prop := Frame.wellFormed (encode i) = true

theorem EncodedFrame.time (t0 t1 t2 t3 : Half) : EncodedFrame.Statement (.time t0 t1 t2 t3) :=
  sealFrame_wellFormed _ _ (by simp) (by decide)

theorem EncodedFrame.acc (rax ray raz rtemp : Half) : EncodedFrame.Statement (.acc rax ray raz rtemp) :=
  sealFrame_wellFormed _ _ (by simp) (by decide)

theorem EncodedFrame.gyro (rwx rwy rwz rg4 : Half) : EncodedFrame.Statement (.gyro rwx rwy rwz rg4) :=
  sealFrame_wellFormed _ _ (by simp) (by decide)

theorem EncodedFrame.angle (rroll rpitch ryaw ra4 : Half) :
    EncodedFrame.Statement (.angle rroll rpitch ryaw ra4) :=
  sealFrame_wellFormed _ _ (by simp) (by decide)

theorem EncodedFrame.mag (rmx rmy rmz rm4 : Half) : EncodedFrame.Statement (.mag rmx rmy rmz rm4) :=
  sealFrame_wellFormed _ _ (by simp) (by decide)

theorem EncodedFrame.baro (rpress : Word) (ralt rb4 : Half) :
    EncodedFrame.Statement (.baro rpress ralt rb4) :=
  sealFrame_wellFormed _ _ (by simp) (by decide)

theorem EncodedFrame.lonlat (rlon rlat : Word) : EncodedFrame.Statement (.lonlat rlon rlat) :=
  sealFrame_wellFormed _ _ (by simp) (by decide)

theorem EncodedFrame.gpsv (rgalt rgvel rghdg rv4 : Half) :
    EncodedFrame.Statement (.gpsv rgalt rgvel rghdg rv4) :=
  sealFrame_wellFormed _ _ (by simp) (by decide)

theorem EncodedFrame.quat (rq0 rq1 rq2 rq3 : Half) : EncodedFrame.Statement (.quat rq0 rq1 rq2 rq3) :=
  sealFrame_wellFormed _ _ (by simp) (by decide)

theorem EncodedFrame.gpsacc (rsats rpdop rhdop rvdop : Half) :
    EncodedFrame.Statement (.gpsacc rsats rpdop rhdop rvdop) :=
  sealFrame_wellFormed _ _ (by simp) (by decide)

end Sys2Proof.Laws
end

