-- ==== Sys2Proof/Laws/Text.lean ====
section
/-!
SUPPORT. Lemmas about the text functions: which characters they give, how long they are, and that a number's digits spell it.
-/

namespace Sys2Proof.Machine

theorem digitChar_toNat (d : Nat) (h : d < 10) : (digitChar d).toNat = 0x30 + d := by
  simp only [digitChar, BitVec.toNat_ofNat]; omega

theorem digitChar_isDigit (d : Nat) (h : d < 10) : isDigit (digitChar d) = true := by
  have := digitChar_toNat d h
  simp only [isDigit, this, Bool.and_eq_true, decide_eq_true_eq]; omega

/-- Reading digits goes on from the number read so far. -/
theorem readDigits_append (s t : Text) :
    readDigits (s ++ t) = t.foldl (fun n c => 10 * n + (c.toNat - 0x30)) (readDigits s) := by
  simp [readDigits, List.foldl_append]

theorem digitsOnto_append (fuel n : Nat) (acc : Text) :
    digitsOnto fuel n acc = digitsOnto fuel n [] ++ acc := by
  induction fuel generalizing n acc with
  | zero => rfl
  | succ k ih =>
    simp only [digitsOnto]
    split
    · rfl
    · rw [ih, ih (acc := [_]), List.append_assoc, List.singleton_append]

/-- With enough fuel the digits are digits, at least one, and spell the number (R13 `str`). -/
theorem digitsOnto_spec (fuel n : Nat) (h : n < 10 ^ fuel) (hf : 0 < fuel) :
    (∀ c ∈ digitsOnto fuel n [], isDigit c = true) ∧ digitsOnto fuel n [] ≠ [] ∧
      readDigits (digitsOnto fuel n []) = n := by
  induction fuel generalizing n with
  | zero => omega
  | succ k ih =>
    simp only [digitsOnto]
    split
    · next h10 =>
      refine ⟨by simpa using digitChar_isDigit n h10, by simp, ?_⟩
      simp [readDigits, digitChar_toNat n h10]
    · next h10 =>
      have hk : 0 < k := by
        rcases Nat.eq_zero_or_pos k with rfl | hk
        · simp at h; omega
        · exact hk
      obtain ⟨hd, hne, hr⟩ := ih (n / 10) (by rw [pow_succ] at h; omega) hk
      have hm : n % 10 < 10 := Nat.mod_lt _ (by decide)
      rw [digitsOnto_append]
      refine ⟨?_, by simp, ?_⟩
      · intro c hc
        rcases List.mem_append.mp hc with hc | hc
        · exact hd c hc
        · rw [List.mem_singleton.mp hc]; exact digitChar_isDigit _ hm
      · rw [readDigits_append, hr]
        simp only [List.foldl_cons, List.foldl_nil, digitChar_toNat _ hm]
        omega

theorem str_spec (n : Nat) :
    (∀ c ∈ str n, isDigit c = true) ∧ str n ≠ [] ∧ readDigits (str n) = n := by
  apply digitsOnto_spec _ _ _ (Nat.succ_pos _)
  calc n < 2 ^ (n.log2 + 1) := Nat.lt_log2_self
    _ ≤ 10 ^ (n.log2 + 1) := Nat.pow_le_pow_left (by decide) _

theorem padZero_length (w : Nat) (t : Text) : (padZero w t).length = max w t.length := by
  simp only [padZero, List.length_append, List.length_replicate]; omega

theorem padZero_isDigit (w : Nat) (t : Text) (h : ∀ c ∈ t, isDigit c = true) :
    ∀ c ∈ padZero w t, isDigit c = true := by
  intro c hc
  rcases List.mem_append.mp hc with hc | hc
  · rw [(List.mem_replicate.mp hc).2]; rfl
  · exact h c hc

@[simp] theorem readDigits_padZero (w : Nat) (t : Text) : readDigits (padZero w t) = readDigits t := by
  have h : ∀ k, readDigits (List.replicate k 0x30#8) = 0 := by
    intro k
    induction k with
    | zero => rfl
    | succ k ih => rw [List.replicate_succ', readDigits_append, ih]; rfl
  rw [padZero, readDigits_append, h]; rfl

/-- A character R112 lets stand in a field: a body character and no comma. -/
def FieldChar (c : Byte) : Prop := BodyChar c ∧ c ≠ 0x2C#8

/-- A digit may stand in a field. -/
theorem fieldChar_of_isDigit (c : Byte) (h : isDigit c = true) : FieldChar c := by
  simp only [isDigit, Bool.and_eq_true, decide_eq_true_eq] at h
  refine ⟨⟨by omega, by omega, ?_, ?_⟩, ?_⟩ <;> rintro rfl <;> simp at h

theorem signOf_fieldChar (p : Prop) [Decidable p] : ∀ c ∈ signOf p, FieldChar c := by
  intro c hc
  unfold signOf at hc
  split at hc
  · rw [List.mem_singleton.mp hc]; simp [FieldChar, BodyChar]
  · cases hc

theorem padZero_fieldChar (w : Nat) (t : Text) (h : ∀ c ∈ t, FieldChar c) :
    ∀ c ∈ padZero w t, FieldChar c := by
  intro c hc
  rcases List.mem_append.mp hc with hc | hc
  · rw [(List.mem_replicate.mp hc).2]; simp [FieldChar, BodyChar]
  · exact h c hc

theorem str_fieldChar (n : Nat) : ∀ c ∈ str n, FieldChar c :=
  fun c hc => fieldChar_of_isDigit c ((str_spec n).1 c hc)

theorem zpad_fieldChar (n : Int) (w : Nat) : ∀ c ∈ zpad n w, FieldChar c := by
  intro c hc
  rcases List.mem_append.mp hc with hc | hc
  · exact signOf_fieldChar _ c hc
  · exact padZero_fieldChar _ _ (str_fieldChar _) c hc

theorem fix_fieldChar (x : Rat) (k : Nat) : ∀ c ∈ fix x k, FieldChar c := by
  have hs := padZero_fieldChar (k + 1) _ (str_fieldChar (roundHalfEven (qabs x * 10 ^ k)).toNat)
  intro c hc
  unfold fix at hc
  rcases List.mem_append.mp hc with hc | hc
  · exact signOf_fieldChar _ c hc
  · split at hc
    · exact hs c hc
    · simp only [List.mem_append, List.mem_singleton] at hc
      rcases hc with (hc | rfl) | hc
      · exact hs c (List.mem_of_mem_take hc)
      · simp [FieldChar, BodyChar]
      · exact hs c (List.mem_of_mem_drop hc)

theorem fixw_fieldChar (x : Rat) (k w : Nat) : ∀ c ∈ fixw x k w, FieldChar c :=
  padZero_fieldChar _ _ (fix_fieldChar x k)

/-- Fields without a forbidden character join to a body without one (R112). -/
theorem joinComma_bodyChar (ts : List Text) (h : ∀ t ∈ ts, ∀ c ∈ t, FieldChar c) :
    ∀ c ∈ joinComma ts, BodyChar c := by
  fun_induction joinComma ts with
  | case1 => simp
  | case2 t => exact fun c hc => (h t (by simp) c hc).1
  | case3 t rest hne ih =>
    intro c hc
    rcases List.mem_append.mp hc with hc | hc
    · exact (h t (by simp) c hc).1
    · rcases List.mem_cons.mp hc with rfl | hc
      · simp [BodyChar]
      · exact ih (fun u hu => h u (List.mem_cons_of_mem _ hu)) c hc

/-- Splitting a joined body at its commas gives the fields back when no field holds one (R112). -/
theorem splitOn_joinComma (ts : List Text) (hne : ts ≠ []) (h : ∀ t ∈ ts, ∀ c ∈ t, FieldChar c) :
    (joinComma ts).splitOn 0x2C#8 = ts := by
  have hj : joinComma ts = [0x2C#8].intercalate ts := by
    fun_induction joinComma ts with
    | case1 => rfl
    | case2 t => simp [List.intercalate]
    | case3 t rest hr ih =>
      obtain ⟨u, us, rfl⟩ := List.exists_cons_of_ne_nil (fun e => hr e)
      rw [ih (by simp) (fun v hv => h v (List.mem_cons_of_mem _ hv))]
      simp [List.intercalate]
  rw [hj]
  exact List.splitOn_intercalate _ (fun l hl hc => (h l hl _ hc).2 rfl) hne

/-- The hexadecimal digits are 0..9 and A..F (R13). -/
theorem hexDigit_toNat (d : Nat) (h : d < 16) :
    (hexDigit d).toNat = if d < 10 then 0x30 + d else 0x37 + d := by
  unfold hexDigit
  split
  · next h10 => exact digitChar_toNat d h10
  · simp only [BitVec.toNat_ofNat]; omega

end Sys2Proof.Machine
end

