-- ==== Sys2Proof/Laws/Sentences.lean ====
section
/-!
SUPPORT. Lemmas about the generator: every body is made of body characters, and every line of a generation is a sentence
line.
-/

namespace Sys2Proof.Machine

/-- The letters, digits and stops the sentences are written with may stand in a body. -/
theorem ascii_fieldChar (s : String)
    (h : s.toList.all (fun c => decide (0x20 ≤ c.toNat ∧ c.toNat ≤ 0x7E ∧ c.toNat ≠ 0x24 ∧ c.toNat ≠ 0x2A ∧
      c.toNat ≠ 0x2C)) = true) :
    ∀ c ∈ ascii s, FieldChar c := by
  intro c hc
  obtain ⟨ch, hm, rfl⟩ := List.mem_map.mp hc
  have := of_decide_eq_true (List.all_eq_true.mp h ch hm)
  obtain ⟨h1, h2, h3, h4, h5⟩ := this
  have hn : (BitVec.ofNat 8 ch.toNat).toNat = ch.toNat := by simp only [BitVec.toNat_ofNat]; omega
  refine ⟨⟨by omega, by omega, ?_, ?_⟩, ?_⟩ <;> (intro e; rw [e] at hn; simp at hn; omega)

/-- A field all of whose characters R112 lets stand in a field. -/
def FieldOk (t : Text) : Prop := ∀ c ∈ t, FieldChar c

/-- A body all of whose characters may stand in a body. -/
def BodyOk (t : Text) : Prop := ∀ c ∈ t, BodyChar c

@[simp] theorem fieldOk_nil : FieldOk [] := by intro c hc; cases hc
@[simp] theorem fieldOk_fix (x : Rat) (k : Nat) : FieldOk (fix x k) := fix_fieldChar x k
@[simp] theorem fieldOk_zpad (n : Int) (w : Nat) : FieldOk (zpad n w) := zpad_fieldChar n w

theorem fieldOk_append (s t : Text) (hs : FieldOk s) (ht : FieldOk t) : FieldOk (s ++ t) := by
  intro c hc
  rcases List.mem_append.mp hc with hc | hc
  · exact hs c hc
  · exact ht c hc

theorem fieldOk_ite (p : Prop) [Decidable p] (s t : Text) (hs : FieldOk s) (ht : FieldOk t) :
    FieldOk (if p then s else t) := by
  split
  · exact hs
  · exact ht

/-- A body is made of body characters when its identifier and its fields are. -/
theorem sentenceBody_bodyOk (ident : String) (fields : List Text) (hi : FieldOk (ascii ident))
    (hf : ∀ t ∈ fields, FieldOk t) : BodyOk (sentenceBody ident fields) := by
  apply joinComma_bodyChar
  intro t ht
  rcases List.mem_cons.mp ht with rfl | ht
  · exact hi
  · exact hf t ht

/-- Splitting a body at its commas gives its identifier and its fields (R112). -/
theorem sentenceBody_splitOn (ident : String) (fields : List Text) (hi : FieldOk (ascii ident))
    (hf : ∀ t ∈ fields, FieldOk t) : (sentenceBody ident fields).splitOn 0x2C#8 = ascii ident :: fields := by
  apply splitOn_joinComma _ (by simp)
  intro t ht
  rcases List.mem_cons.mp ht with rfl | ht
  · exact hi
  · exact hf t ht

@[simp] theorem fieldOk_posField (m : Numeric) (k : Nat) (x : Rat) (dw : Nat) :
    FieldOk (posField m k x dw) :=
  fieldOk_append _ _ (fieldOk_zpad _ _) (fixw_fieldChar _ _ _)

@[simp] theorem fieldOk_timeField (t : HostTime) : FieldOk (timeField t) :=
  fieldOk_append _ _
    (fieldOk_append _ _
      (fieldOk_append _ _ (fieldOk_append _ _ (fieldOk_zpad _ _) (fieldOk_zpad _ _)) (fieldOk_zpad _ _))
      (ascii_fieldChar "." (by decide)))
    (fieldOk_zpad _ _)

@[simp] theorem fieldOk_dateField (t : HostTime) : FieldOk (dateField t) :=
  fieldOk_append _ _ (fieldOk_append _ _ (fieldOk_zpad _ _) (fieldOk_zpad _ _)) (fieldOk_zpad _ _)

/-- A field that is one of two constants. -/
theorem fieldOk_choice (p : Prop) [Decidable p] (s t : String) (hs : FieldOk (ascii s))
    (ht : FieldOk (ascii t)) : FieldOk (if p then ascii s else ascii t) := fieldOk_ite _ _ _ hs ht

theorem fieldOk_prnFields (n : Int) : ∀ t ∈ prnFields n, FieldOk t := by
  intro t ht
  obtain ⟨i, _, rfl⟩ := List.mem_map.mp ht
  exact fieldOk_ite _ _ _ (fieldOk_zpad _ _) fieldOk_nil

theorem fieldsOk_cons (t : Text) (ts : List Text) (h : FieldOk t) (hs : ∀ u ∈ ts, FieldOk u) :
    ∀ u ∈ t :: ts, FieldOk u := by
  intro u hu
  rcases List.mem_cons.mp hu with rfl | hu
  · exact h
  · exact hs u hu

theorem fieldsOk_nil : ∀ u ∈ ([] : List Text), FieldOk u := by
  intro u hu; cases hu

theorem bodyXDR_bodyOk (kind unit tag : String) (v : Text) (hk : FieldOk (ascii kind))
    (hv : FieldOk v) (hu : FieldOk (ascii unit)) (ht : FieldOk (ascii tag)) :
    BodyOk (bodyXDR kind v unit tag) :=
  sentenceBody_bodyOk _ _ (ascii_fieldChar _ (by decide))
    (fieldsOk_cons _ _ hk (fieldsOk_cons _ _ hv (fieldsOk_cons _ _ hu (fieldsOk_cons _ _ ht fieldsOk_nil))))

theorem bodyGGA_bodyOk (p : Params) (a : Agg) (now : HostTime) : BodyOk (bodyGGA p a now) := by
  have m : FieldOk (ascii "M") := ascii_fieldChar _ (by decide)
  apply sentenceBody_bodyOk _ _ (ascii_fieldChar _ (by decide))
  refine fieldsOk_cons _ _ (fieldOk_timeField _) (fieldsOk_cons _ _ (fieldOk_posField _ _ _ _) ?_)
  refine fieldsOk_cons _ _
    (fieldOk_choice _ _ _ (ascii_fieldChar _ (by decide)) (ascii_fieldChar _ (by decide)))
    (fieldsOk_cons _ _ (fieldOk_posField _ _ _ _) ?_)
  refine fieldsOk_cons _ _
    (fieldOk_choice _ _ _ (ascii_fieldChar _ (by decide)) (ascii_fieldChar _ (by decide))) ?_
  refine fieldsOk_cons _ _
    (fieldOk_choice _ _ _ (ascii_fieldChar _ (by decide)) (ascii_fieldChar _ (by decide))) ?_
  refine fieldsOk_cons _ _ (fieldOk_zpad _ _) (fieldsOk_cons _ _ (fieldOk_fix _ _) ?_)
  exact fieldsOk_cons _ _ (fieldOk_fix _ _) (fieldsOk_cons _ _ m (fieldsOk_cons _ _ fieldOk_nil
    (fieldsOk_cons _ _ m (fieldsOk_cons _ _ fieldOk_nil (fieldsOk_cons _ _ fieldOk_nil fieldsOk_nil)))))

theorem bodyRMC_bodyOk (p : Params) (a : Agg) (d : Rat) (now : HostTime) :
    BodyOk (bodyRMC p a d now) := by
  apply sentenceBody_bodyOk _ _ (ascii_fieldChar _ (by decide))
  refine fieldsOk_cons _ _ (fieldOk_timeField _) (fieldsOk_cons _ _
    (fieldOk_choice _ _ _ (ascii_fieldChar _ (by decide)) (ascii_fieldChar _ (by decide))) ?_)
  refine fieldsOk_cons _ _ (fieldOk_posField _ _ _ _) (fieldsOk_cons _ _
    (fieldOk_choice _ _ _ (ascii_fieldChar _ (by decide)) (ascii_fieldChar _ (by decide))) ?_)
  refine fieldsOk_cons _ _ (fieldOk_posField _ _ _ _) (fieldsOk_cons _ _
    (fieldOk_choice _ _ _ (ascii_fieldChar _ (by decide)) (ascii_fieldChar _ (by decide))) ?_)
  refine fieldsOk_cons _ _ (fieldOk_fix _ _) (fieldsOk_cons _ _ (fieldOk_fix _ _) ?_)
  exact fieldsOk_cons _ _ (fieldOk_dateField _) (fieldsOk_cons _ _ (fieldOk_fix _ _) (fieldsOk_cons _ _
    (fieldOk_choice _ _ _ (ascii_fieldChar _ (by decide)) (ascii_fieldChar _ (by decide))) fieldsOk_nil))

theorem bodyVTG_bodyOk (p : Params) (a : Agg) : BodyOk (bodyVTG p a) := by
  apply sentenceBody_bodyOk _ _ (ascii_fieldChar _ (by decide))
  refine fieldsOk_cons _ _ (fieldOk_fix _ _) (fieldsOk_cons _ _ (ascii_fieldChar _ (by decide)) ?_)
  refine fieldsOk_cons _ _ (fieldOk_fix _ _) (fieldsOk_cons _ _ (ascii_fieldChar _ (by decide)) ?_)
  refine fieldsOk_cons _ _ (fieldOk_fix _ _) (fieldsOk_cons _ _ (ascii_fieldChar _ (by decide)) ?_)
  exact fieldsOk_cons _ _ (fieldOk_fix _ _) (fieldsOk_cons _ _ (ascii_fieldChar _ (by decide)) fieldsOk_nil)

theorem bodyGSA_bodyOk (p : Params) (a : Agg) : BodyOk (bodyGSA p a) := by
  apply sentenceBody_bodyOk _ _ (ascii_fieldChar _ (by decide))
  intro t ht
  rcases List.mem_append.mp ht with ht | ht
  · rcases List.mem_append.mp ht with ht | ht
    · exact fieldsOk_cons _ _ (ascii_fieldChar _ (by decide)) (fieldsOk_cons _ _
        (fieldOk_choice _ _ _ (ascii_fieldChar _ (by decide)) (ascii_fieldChar _ (by decide)))
        fieldsOk_nil) t ht
    · exact fieldOk_prnFields _ t ht
  · exact fieldsOk_cons _ _ (fieldOk_fix _ _) (fieldsOk_cons _ _ (fieldOk_fix _ _)
      (fieldsOk_cons _ _ (fieldOk_fix _ _) fieldsOk_nil)) t ht

/-- A sentence of one number and one letter. -/
theorem valueBody_bodyOk (ident letter : String) (x : Rat) (k : Nat) (hi : FieldOk (ascii ident))
    (hl : FieldOk (ascii letter)) : BodyOk (sentenceBody ident [fix x k, ascii letter]) :=
  sentenceBody_bodyOk _ _ hi (fieldsOk_cons _ _ (fieldOk_fix _ _) (fieldsOk_cons _ _ hl fieldsOk_nil))

/-- Every body the generator builds is made of body characters (R47, R112). -/
theorem sentenceTable_bodyOk (p : Params) (a : Agg) (d : Rat) (now : HostTime) :
    ∀ e ∈ sentenceTable p a d now, BodyOk e.2 := by
  have xdr : ∀ (kind unit tag : String) (x : Rat) (k : Nat), FieldOk (ascii kind) → FieldOk (ascii unit) →
      FieldOk (ascii tag) → BodyOk (bodyXDR kind (fix x k) unit tag) :=
    fun _ _ _ _ _ h1 h2 h3 => bodyXDR_bodyOk _ _ _ _ h1 (fieldOk_fix _ _) h2 h3
  intro e he
  simp only [sentenceTable, List.mem_cons, List.not_mem_nil, or_false] at he
  rcases he with rfl | rfl | rfl | rfl | rfl | rfl | rfl | rfl | rfl | rfl | rfl | rfl | rfl | rfl
  · exact bodyGGA_bodyOk _ _ _
  · exact bodyRMC_bodyOk _ _ _ _
  · exact bodyVTG_bodyOk _ _
  · exact bodyGSA_bodyOk _ _
  · exact valueBody_bodyOk "HCHDM" "M" _ _ (ascii_fieldChar _ (by decide)) (ascii_fieldChar _ (by decide))
  · exact valueBody_bodyOk "HCHDT" "T" _ _ (ascii_fieldChar _ (by decide)) (ascii_fieldChar _ (by decide))
  · exact valueBody_bodyOk "TIROT" "A" _ _ (ascii_fieldChar _ (by decide)) (ascii_fieldChar _ (by decide))
  · exact xdr "A" "D" "PTCH" _ _ (ascii_fieldChar _ (by decide)) (ascii_fieldChar _ (by decide)) (ascii_fieldChar _ (by decide))
  · exact xdr "A" "D" "ROLL" _ _ (ascii_fieldChar _ (by decide)) (ascii_fieldChar _ (by decide)) (ascii_fieldChar _ (by decide))
  · exact xdr "P" "B" "BARO" _ _ (ascii_fieldChar _ (by decide)) (ascii_fieldChar _ (by decide)) (ascii_fieldChar _ (by decide))
  · exact xdr "C" "C" "TEMP" _ _ (ascii_fieldChar _ (by decide)) (ascii_fieldChar _ (by decide)) (ascii_fieldChar _ (by decide))
  · exact xdr "G" "" "ACCX" _ _ (ascii_fieldChar _ (by decide)) (ascii_fieldChar _ (by decide)) (ascii_fieldChar _ (by decide))
  · exact xdr "G" "" "ACCY" _ _ (ascii_fieldChar _ (by decide)) (ascii_fieldChar _ (by decide)) (ascii_fieldChar _ (by decide))
  · exact xdr "G" "" "ACCZ" _ _ (ascii_fieldChar _ (by decide)) (ascii_fieldChar _ (by decide)) (ascii_fieldChar _ (by decide))

/-- Every line of a generation is a whole sentence line (R47, R113). -/
theorem generate_sentenceLine (p : Params) (a : Agg) (d : Rat) (now : HostTime) :
    ∀ l ∈ generate p a d now, SentenceLine l := by
  intro l hl
  obtain ⟨e, he, rfl⟩ := List.mem_map.mp hl
  exact ⟨e.2, sentenceTable_bodyOk p a d now e (List.mem_of_mem_filter he), rfl⟩

end Sys2Proof.Machine
end

