-- ==== Sys2Proof/Tests/Slice0.lean ====
section
/-!
SUPPORT. Tests, their expected values taken from the spec's vectors (95_test_vectors.md: W, VC, VD, VF, VN, VS) or worked
out by hand from its layouts, and the witnesses of the statements that have hypotheses.
-/

namespace Sys2Proof.Tests

open Sys2Proof.Machine

/-! ## Helpers -/

/-- A frame from its byte values. -/
def bytes (ns : List Nat) : Frame := ns.map (BitVec.ofNat 8)

/-- The state after reset with the host about to deliver these bytes. -/
def hearing (ns : List Nat) : State := { State.reset with input := (bytes ns).map .deliver }

/-- The state after reset with ten bytes of this frame received and the eleventh about to be delivered. -/
def ready (ns : List Nat) : State :=
  { State.reset with
    sync := true, buf := (bytes ns).take 10, input := ((bytes ns).drop 10).map .deliver }

/-- The same with the numeric domain BINARY64. -/
def ready64 (ns : List Nat) : State :=
  { ready ns with params := { numeric := .binary64, latLon := .ddm, decimals := .default } }

/-- The same with LATLON_MODE = DEG_E7. -/
def readyE7 (m : Numeric) (ns : List Nat) : State :=
  { ready ns with params := { numeric := m, latLon := .degE7, decimals := .default } }

/-- The state a step gives, if it gives one. -/
def nextOf (o : Host.Outcome State Fault Refusal) : Option State :=
  match o with
  | .next t => some t
  | _ => none

/-- The aggregate after one step. -/
def aggAfter (s : State) : Option Agg := (nextOf (step s)).map State.agg

/-- What the decoder makes of a frame. -/
def read (ns : List Nat) : DecodeError ⊕ Instr :=
  match decodeFrame (bytes ns) with
  | .ok i => .inr i
  | .error e => .inl e

/-- The spec's end-to-end ANGLE frame (W4). -/
def angleBytes : List Nat := [0x55, 0x53, 0, 0, 0, 0, 0, 0x47, 0, 0, 0xEF]

/-! ## Well-formedness: a frame each check refuses, and one all accept -/

theorem test_wellFormed_length : (bytes (angleBytes ++ [0])).lengthOk = false := by decide
theorem test_wellFormed_short : (bytes (angleBytes.take 10)).wellFormed = false := by decide
theorem test_wellFormed_header : (bytes [0x54, 0x53, 0, 0, 0, 0, 0, 0x47, 0, 0, 0xEE]).headerOk = false := by
  decide
theorem test_wellFormed_checksum : (bytes [0x55, 0x53, 0, 0, 0, 0, 0, 0x47, 0, 0, 0xEE]).checksumOk = false := by
  decide
theorem test_wellFormed_tag : (bytes [0x55, 0x56, 1, 0, 2, 0, 3, 0, 4, 0, 0xB5]).tagOk = false := by decide
theorem test_wellFormed_accepts : (bytes angleBytes).wellFormed = true := by decide

/-! ## Decoding: one frame per type, its fields read off the bytes by hand (VD1 to VD23) -/

theorem test_decode_time : read [0x55, 0x50, 0x0B, 0x1A, 0x0D, 0x0C, 0, 0, 0, 0, 0xE3] =
    .inr (.time 0x1A0B 0x0C0D 0 0) := by decide
theorem test_decode_acc : read [0x55, 0x51, 0x00, 0x80, 0xFF, 0x7F, 0, 0, 0x18, 0xFC, 0xB8] =
    .inr (.acc (-32768) 32767 0 (-1000)) := by decide
theorem test_decode_gyro : read [0x55, 0x52, 0x00, 0x80, 0xFF, 0x7F, 0x5C, 0xFF, 0, 0, 0x00] =
    .inr (.gyro (-32768) 32767 (-164) 0) := by decide
theorem test_decode_angle : read [0x55, 0x53, 0x00, 0x40, 0x00, 0xC0, 0x00, 0x80, 0, 0, 0x28] =
    .inr (.angle 16384 (-16384) (-32768) 0) := by decide
theorem test_decode_mag : read [0x55, 0x54, 0xFF, 0xFF, 0, 0, 0x2C, 0x01, 0, 0, 0xD4] =
    .inr (.mag (-1) 0 300 0) := by decide
theorem test_decode_baro : read [0x55, 0x55, 0xFB, 0xFF, 0xFF, 0xFF, 0x00, 0x80, 0x07, 0x00, 0x29] =
    .inr (.baro (-5) (-32768) 7) := by decide
theorem test_decode_lonlat : read [0x55, 0x57, 0x32, 0x7C, 0x24, 0xB7, 0xAE, 0x39, 0x3C, 0x16, 0x6E] =
    .inr (.lonlat (-1222345678) 373045678) := by decide
theorem test_decode_gpsv : read [0x55, 0x58, 0xCE, 0xFF, 0x30, 0xF8, 0xA0, 0x8C, 0, 0, 0xCE] =
    .inr (.gpsv (-50) (-2000) 36000 0) := by decide
theorem test_decode_quat : read [0x55, 0x59, 0x00, 0x80, 0x00, 0x40, 0, 0, 0x00, 0xC0, 0x2E] =
    .inr (.quat (-32768) 16384 0 (-16384)) := by decide
theorem test_decode_gpsacc : read [0x55, 0x5A, 0x08, 0, 0x96, 0, 0x5A, 0, 0x78, 0, 0x1F] =
    .inr (.gpsacc 8 150 90 120) := by decide

/-- VC1 and VC2: ten bytes, twelve bytes. -/
theorem test_decode_length : read (angleBytes.take 10) = .inl .framingError ∧
    read (angleBytes ++ [0]) = .inl .framingError := by decide
/-- VC3 and VC5: framing before checksum, checksum before tag. -/
theorem test_decode_check_order : read [0x54, 0x53, 0, 0, 0, 0, 0, 0, 0, 0, 0] = .inl .framingError ∧
    read [0x55, 0x56, 0, 0, 0, 0, 0, 0, 0, 0, 0] = .inl .checksumMismatch := by decide
/-- VC8: the sum 0x94C wraps to 0x4C, the tag is unknown. -/
theorem test_decode_unknown : read [0x55, 0xFF, 0xFF, 0xFF, 0xFF, 0xFF, 0xFF, 0xFF, 0xFF, 0xFF, 0x4C] =
    .inl .unknownPacketType := by decide
/-- VC10: two payload bytes exchanged pass the checksum. -/
theorem test_decode_permuted : read [0x55, 0x53, 0x47, 0, 0, 0, 0, 0, 0, 0, 0xEF] = .inr (.angle 71 0 0 0) := by
  decide
/-- The frame form of R68: header, tag, payload, sum. -/
theorem test_encode_angle : encode (.angle 0 0 0x4700 0) = bytes angleBytes := by decide
/-- The table's key for ANGLE, 0x5553, and its key for BARO, 0x5555, with operand words of zeros. -/
theorem test_decodeTableWord : decodeTableWord 16 0x5553 = some (.angle 0 0 0 0) ∧
    decodeTableWord 16 0x5555 = some (.baro 0 0 0) := by decide
theorem test_decodeTableWord_refuses : decodeTableWord 16 0x5556 = none ∧ decodeTableWord 16 0x5453 = none := by
  decide

/-! ## One step per frame type -/

/-- VD1. -/
theorem test_time : (nextOf (step (ready [0x55, 0x50, 0x0B, 0x1A, 0x0D, 0x0C, 0, 0, 0, 0, 0xE3]))).map
    (fun t => (t.agg, t.ts)) = some (Agg.zero, some State.reset.now) := by decide +kernel
/-- VD3. -/
theorem test_acc : aggAfter (ready [0x55, 0x51, 0x00, 0x80, 0xFF, 0x7F, 0, 0, 0x18, 0xFC, 0xB8]) =
    some { Agg.zero with ax := -784 / 5, ay := 1605583 / 10240, temp := -10 } := by decide +kernel
/-- The BINARY64 order of R89, worked by hand: 1/2 × 16 = 8, and 8 times the binary64 number nearest 9.8 is exact. -/
theorem test_acc_binary64 : aggAfter (ready64 [0x55, 0x51, 0x00, 0x40, 0, 0, 0, 0, 0xC4, 0x09, 0xB3]) =
    some { Agg.zero with ax := 2758454771764429 / 2 ^ 45, temp := 25 } := by decide +kernel
/-- VD5. -/
theorem test_gyro : aggAfter (ready [0x55, 0x52, 0x00, 0x80, 0xFF, 0x7F, 0x5C, 0xFF, 0, 0, 0x00]) =
    some { Agg.zero with wx := -2000, wy := 4095875 / 2048, wz := -5125 / 512 } := by decide +kernel
/-- VD7: the most negative raw yaw gives +180. -/
theorem test_angle : aggAfter (ready [0x55, 0x53, 0x00, 0x40, 0x00, 0xC0, 0x00, 0x80, 0, 0, 0x28]) =
    some { Agg.zero with roll := 90, pitch := -90, yaw := 180 } := by decide +kernel
/-- In BINARY64 a raw yaw of 0 gives −0.0 (R91, U4), and it prints as 0.0. -/
theorem test_angle_minusZero : ((nextOf (step (ready64 [0x55, 0x53, 0, 0, 0, 0, 0, 0, 0, 0, 0xA8]))).map
    fun t => (t.agg, t.out.head?)) =
      some ({ Agg.zero with yawMinusZero := true }, some (ascii "$HCHDM,0.0,M*29" ++ [0x0D, 0x0A])) := by
  decide +kernel
/-- VD9. -/
theorem test_mag : aggAfter (ready [0x55, 0x54, 0xFF, 0xFF, 0, 0, 0x2C, 0x01, 0, 0, 0xD4]) =
    some { Agg.zero with mx := -1, mz := 300 } := by decide +kernel
/-- VD11: the 7 is not used. -/
theorem test_baro : aggAfter (ready [0x55, 0x55, 0xFB, 0xFF, 0xFF, 0xFF, 0x00, 0x80, 0x07, 0x00, 0x29]) =
    some { Agg.zero with pressure := -1 / 20, baroAlt := -8192 / 25 } := by decide +kernel
/-- VD14: minutes from 60 on are not rejected. -/
theorem test_lonlat : aggAfter (ready [0x55, 0x57, 0x40, 0x1F, 0xBB, 0x49, 0x40, 0x30, 0x95, 0xFF, 0x13]) =
    some { Agg.zero with lon := 745 / 6, lat := -7 / 6 } := by decide +kernel
/-- VD12 in the other mode. -/
theorem test_lonlat_degE7 :
    aggAfter (readyE7 .exact [0x55, 0x57, 0x32, 0x7C, 0x24, 0xB7, 0xAE, 0x39, 0x3C, 0x16, 0x6E]) =
      some { Agg.zero with lon := -1222345678 / 10000000, lat := 373045678 / 10000000 } := by decide +kernel
/-- VD19: the lower boundary of the clamp passes, and the heading is read signed. -/
theorem test_gpsv : aggAfter (ready [0x55, 0x58, 0xCE, 0xFF, 0x30, 0xF8, 0xA0, 0x8C, 0, 0, 0xCE]) =
    some { Agg.zero with gpsAlt := -5, gpsVel := -200, gpsHdg := -14768 / 5 } := by decide +kernel
/-- VD18: one tenth beyond it does not. -/
theorem test_gpsv_clamped : aggAfter (ready [0x55, 0x58, 0, 0, 0x2F, 0xF8, 0xE2, 0xFF, 0, 0, 0xB5]) =
    some { Agg.zero with gpsHdg := -3 } := by decide +kernel
/-- VD21. -/
theorem test_quat : aggAfter (ready [0x55, 0x59, 0x00, 0x80, 0x00, 0x40, 0, 0, 0x00, 0xC0, 0x2E]) =
    some { Agg.zero with q0 := -1, q1 := 1 / 2, q3 := -1 / 2 } := by decide +kernel
/-- VD23. -/
theorem test_gpsacc : aggAfter (ready [0x55, 0x5A, 0xFF, 0xFF, 0, 0, 0x0F, 0x27, 0xFF, 0xFF, 0xE1]) =
    some { Agg.zero with sats := -1, hdop := 9999 / 100, vdop := -1 / 100 } := by decide +kernel

/-! ## The synchronizer, rejection, text -/

/-- VS4: a header byte inside a frame is data. -/
theorem test_feed_header_is_data :
    feed 0x55 { State.reset with sync := true, buf := [0x55, 0x53] } =
      ({ State.reset with sync := true, buf := [0x55, 0x53, 0x55] }, none) := by decide +kernel
/-- A rejected frame (VC4) leaves the aggregate and `out`, and says why. -/
theorem test_rejected : (nextOf (step (ready [0x55, 0x53, 0, 0, 0, 0, 0, 0x47, 0, 0, 0xEE]))).map
    (fun t => (t.agg, t.out, t.verdict, t.sync)) =
      some (Agg.zero, [], some (.error .checksumMismatch), false) := by decide +kernel
/-- The placed word's frame is run by the next step. -/
theorem test_withFetchWord : (nextOf (step (State.reset.withFetchWord 16 0x5551))).map State.verdict =
    some (some .ok) := by decide +kernel
/-- VF2, VF4, VF5, VF6, VF8. -/
theorem test_fix : fix (-1 / 25) 1 = ascii "-0.0" ∧ fix (1 / 4) 1 = ascii "0.2" ∧ fix (7 / 20) 1 = ascii "0.4" ∧
    fix (-3 / 4) 0 = ascii "-1" ∧ fix (-1 / 200) 2 = ascii "-0.00" := by decide +kernel
/-- VF11. -/
theorem test_zpad : zpad 123 2 = ascii "123" ∧ zpad (-5) 3 = ascii "-05" ∧ zpad 0 2 = ascii "00" := by decide
/-- VF16 and VF18: minutes that round to 60 do not carry. And another count than R118's default (log 12). -/
theorem test_posField : posField .exact 4 (-1 / 2) 2 = ascii "0030.0000" ∧
    posField .exact 4 (10 + 5999996 / 100000 / 60) 2 = ascii "1060.0000" ∧
    posField .exact 2 (1 / 8) 3 = ascii "00007.50" := by decide +kernel
/-- A true heading just under 0 wraps to just under 360 in BINARY64, and not to 360 (R123). -/
theorem test_trueHeading_binary64 : trueHeading .binary64 .zero (-1 / 2 ^ 60) = 360 - 1 / 2 ^ 60 := by
  decide +kernel
/-- VF19. -/
theorem test_nmeaCs : hex2 (nmeaCs (ascii "HCHDM,260.2,M")) = ascii "2F" := by decide
/-- The first line of P1. -/
theorem test_first_line : ((nextOf (step (ready angleBytes))).map fun t => t.out.head?) =
    some (some (ascii "$HCHDM,260.2,M*2F" ++ [0x0D, 0x0A])) := by decide +kernel

/-! ## Witnesses: states and operands that meet the hypotheses of each statement that has any -/

theorem witness_accepted : decodeFrame (bytes angleBytes) = .ok (.angle 0 0 0x4700 0) := rfl

theorem witness_FirstFailingCheckGivesTheVerdict :
    (let f := bytes (angleBytes.take 10); ¬(f.lengthOk = true ∧ f.headerOk = true)) ∧
    (let f := bytes [0x54, 0x53, 0, 0, 0, 0, 0, 0x47, 0, 0, 0xEE]; ¬(f.lengthOk = true ∧ f.headerOk = true)) ∧
    (let f := bytes [0x55, 0x56, 0, 0, 0, 0, 0, 0, 0, 0, 0]
     f.lengthOk = true ∧ f.headerOk = true ∧ f.checksumOk = false) ∧
    (let f := bytes [0x55, 0x56, 1, 0, 2, 0, 3, 0, 4, 0, 0xB5]
     f.lengthOk = true ∧ f.headerOk = true ∧ f.checksumOk = true ∧ f.tagOk = false) ∧
    (bytes angleBytes).wellFormed = true := by decide

theorem witness_SealedBytesAreAcceptedByHeaderAndTag :
    (let g := bytes (angleBytes.take 10); g.length = 10 ∧ g.headerOk = true ∧ g.tagOk = true) ∧
    (let g := bytes [0x54, 0x53, 0, 0, 0, 0, 0, 0x47, 0, 0]; g.length = 10 ∧ g.headerOk = false) ∧
    (let g := bytes [0x55, 0x56, 1, 0, 2, 0, 3, 0, 4, 0]
     g.length = 10 ∧ g.headerOk = true ∧ g.tagOk = false) := by decide

/-- The ends of the range of bytes and of bits. -/
theorem witness_SingleBitFlipIsCaught : (∃ i, decodeFrame (bytes angleBytes) = .ok i) ∧
    ((0 < 11 ∧ 0 < 8) ∧ (1 < 11 ∧ 0 < 8) ∧ (10 < 11 ∧ 7 < 8)) := ⟨⟨_, rfl⟩, by decide⟩

theorem witness_ChecksumMissesPermutationsAndCompensation :
    (let f := bytes angleBytes
     let g := bytes [0x55, 0x53, 0x47, 0, 0, 0, 0, 0, 0, 0, 0xEF]
     f.length = 11 ∧ g.length = 11 ∧ byteAt f 0 = byteAt g 0 ∧ byteAt f 10 = byteAt g 10 ∧
       ((f.drop 1).take 9).Perm ((g.drop 1).take 9) ∧ f ≠ g) ∧
    ((bytes angleBytes).length = 11 ∧ 1 ≤ 1 ∧ 1 ≤ 9 ∧ 1 ≤ 9 ∧ 9 ≤ 9 ∧ 1 ≠ 9) := by decide

theorem witness_UnrecognisedTagsAreTheOther246 : ∀ f ∈
    [bytes [0x55, 0x00, 0, 0, 0, 0, 0, 0, 0, 0, 0x55], bytes [0x55, 0x4F, 0, 0, 0, 0, 0, 0, 0, 0, 0xA4],
      bytes [0x55, 0x50, 0, 0, 0, 0, 0, 0, 0, 0, 0xA5], bytes [0x55, 0x56, 0, 0, 0, 0, 0, 0, 0, 0, 0xAB],
      bytes [0x55, 0x5A, 0, 0, 0, 0, 0, 0, 0, 0, 0xAF], bytes [0x55, 0x5B, 0, 0, 0, 0, 0, 0, 0, 0, 0xB0]],
    f.lengthOk = true ∧ f.headerOk = true ∧ f.checksumOk = true := by decide

theorem witness_UnsynchronizedByteStartsAFrameOrIsDiscarded :
    (∃ s : State, s.sync = false ∧ s.input = .deliver 0x55 :: []) ∧
    ∃ s : State, s.sync = false ∧ s.input = .deliver 0x53 :: [] :=
  ⟨⟨hearing [0x55], rfl, rfl⟩, hearing [0x53], rfl, rfl⟩

/-- One byte held, and nine. -/
theorem witness_SynchronizedByteIsAppended :
    (∃ s : State, s.sync = true ∧ s.buf.length = 1 ∧ s.buf.length ≤ 9 ∧ s.input = .deliver 0x53 :: []) ∧
    ∃ s : State, s.sync = true ∧ s.buf.length = 9 ∧ s.buf.length ≤ 9 ∧ s.input = .deliver 0x00 :: [] :=
  ⟨⟨{ hearing [0x53] with sync := true, buf := [0x55] }, rfl, rfl, by decide, rfl⟩,
    { hearing [0x00] with sync := true, buf := (bytes angleBytes).take 9 }, rfl, rfl, by decide, rfl⟩

theorem witness_EleventhByteGivesTheCandidate :
    let s := ready angleBytes
    s.sync = true ∧ s.buf.length = 10 ∧ s.input = .deliver 0xEF :: [] := ⟨rfl, rfl, rfl⟩

theorem witness_StepRunsTheDecodedFrame :
    let s := ready angleBytes
    s.sync = true ∧ s.buf.length = 10 ∧ s.input = .deliver 0xEF :: [] ∧
      decodeFrame (s.buf ++ [0xEF]) = .ok (.angle 0 0 0x4700 0) := ⟨rfl, rfl, rfl, rfl⟩

theorem witness_PlacedTableWordIsRunNext : decodeTableWord 16 0x5553 = some (.angle 0 0 0 0) := rfl

theorem witness_RejectedFrameChangesNothingElse :
    let s := ready [0x55, 0x56, 1, 0, 2, 0, 3, 0, 4, 0, 0xB5]
    s.sync = true ∧ s.buf.length = 10 ∧ s.input = .deliver 0xB5 :: [] ∧
      decodeFrame (s.buf ++ [0xB5]) = .error .unknownPacketType := ⟨rfl, rfl, rfl, rfl⟩

theorem syncInv_ready : SyncInv (ready angleBytes) :=
  ⟨fun h => absurd h (by decide), fun _ => ⟨by decide, by decide, rfl⟩⟩

/-- The header alone held and ten bytes to come; ten held and one to come. -/
theorem witness_LockedFrameTakesExactlyElevenBytes :
    (∃ s : State, SyncInv s ∧ s.sync = true ∧ s.buf.length + (bytes (angleBytes.drop 1)).length = 11 ∧
      s.input = (bytes (angleBytes.drop 1)).map HostOp.deliver ++ [] ∧ 1 ≤ 9 ∧
        9 < (bytes (angleBytes.drop 1)).length) ∧
    ∃ s : State, SyncInv s ∧ s.sync = true ∧ s.buf.length + (bytes [0xEF]).length = 11 ∧
      s.input = (bytes [0xEF]).map HostOp.deliver ++ [] :=
  ⟨⟨{ hearing (angleBytes.drop 1) with sync := true, buf := [0x55] },
      ⟨fun h => absurd h (by decide), fun _ => ⟨by decide, by decide, rfl⟩⟩, rfl, rfl, rfl, by decide, by decide⟩,
    ready angleBytes, syncInv_ready, rfl, rfl, rfl⟩

/-- The two frames of W1, and an eleven-byte frame with a wrong checksum. -/
theorem witness_UncorruptedStreamGivesItsFrames :
    let fs : List Frame := [bytes angleBytes, bytes [0x55, 0x54, 0xFF, 0xFF, 0, 0, 0x2C, 0x01, 0, 0, 0xD4],
      bytes [0x55, 0x55, 0x55, 0x55, 0x55, 0x55, 0x55, 0x55, 0x55, 0x55, 0x55]]
    let s : State := { State.reset with input := fs.flatten.map HostOp.deliver ++ [] }
    (∀ f ∈ fs, f.lengthOk = true ∧ f.headerOk = true) ∧ s.sync = false ∧
      s.input = fs.flatten.map HostOp.deliver ++ [] := ⟨by decide, rfl, rfl⟩

/-- States that differ in the declination and in the velocity held. -/
theorem witness_CandidatesDependOnTheBytesAlone :
    let s := hearing angleBytes
    let u : State := { hearing angleBytes with decl := 27 / 2, agg := { Agg.zero with gpsVel := 5 } }
    11 ≤ (bytes angleBytes).length ∧ s.sync = u.sync ∧ s.buf = u.buf ∧
      s.input = (bytes angleBytes).map HostOp.deliver ∧ u.input = (bytes angleBytes).map HostOp.deliver :=
  ⟨by decide, rfl, rfl, rfl, rfl⟩

theorem witness_IdleStepHoldsTheState : (ready (angleBytes.take 10)).input = [] := rfl

theorem witness_SetDeclWritesTheDeclination :
    ∃ s : State, s.input = .setDecl (-1000) :: [.reset] := ⟨{ State.reset with input := [.setDecl (-1000), .reset] }, rfl⟩

/-- Each of the three clauses; the drains at the boundary: all of one line, and one more than there is. -/
theorem witness_SetTimeAndDrainDoWhatTheySay :
    (∃ s : State, s.input = .setTime .initial :: []) ∧
    (∃ s : State, s.input = .drain [ascii "x"].length :: [] ∧ s.out = [ascii "x"] ++ []) ∧
    ∃ s : State, s.input = .drain 2 :: [] ∧ s.out.length < 2 :=
  ⟨⟨{ State.reset with input := [.setTime .initial] }, rfl⟩,
    ⟨{ State.reset with input := [.drain 1], out := [ascii "x"] }, rfl, rfl⟩,
    { State.reset with input := [.drain 2], out := [ascii "x"] }, rfl, by decide⟩

/-- A reset in the middle of a frame. -/
theorem witness_ResetSetsEveryElement : ∃ s : State, s.sync = true ∧ s.input = .reset :: [] :=
  ⟨{ ready angleBytes with input := [.reset] }, rfl, rfl⟩

/-- A state of the invariant in which a step completes an accepted frame. -/
theorem witness_EveryStepKeepsTheInvariant : Inv (ready angleBytes) ∧ ∃ t, step (ready angleBytes) = .next t :=
  ⟨⟨syncInv_ready, ⟨nofun, ⟨by decide +kernel, by decide +kernel⟩,
    fun _ => ⟨by decide +kernel, by decide +kernel⟩, nofun⟩⟩, _, rfl⟩

theorem witness_EveryStepKeepsTheSynchronizerInvariant :
    SyncInv (ready angleBytes) ∧ ∃ t, step (ready angleBytes) = .next t := ⟨syncInv_ready, _, rfl⟩

/-- For the statements about any two states a step leads from and to: an accepted frame, a TIME frame, a
declination, a time, a reset, a drain. -/
theorem witness_a_step_answers : (∃ t, step (ready angleBytes) = .next t) ∧
    (∃ t, step (ready [0x55, 0x50, 0, 0, 0, 0, 0, 0, 0, 0, 0xA5]) = .next t) ∧
    (∃ t, step { State.reset with input := [.setDecl 5] } = .next t) ∧
    (∃ t, step { State.reset with input := [.setTime .initial] } = .next t) ∧
    (∃ t, step { State.reset with input := [.reset] } = .next t) ∧
    ∃ t, step { State.reset with input := [.drain 1], out := [ascii "x"] } = .next t :=
  ⟨⟨_, rfl⟩, ⟨_, rfl⟩, ⟨_, rfl⟩, ⟨_, rfl⟩, ⟨_, rfl⟩, _, rfl⟩

/-- Both a frame that is no MAG frame and one that is answer a next state; so each clause is met. -/
theorem witness_FramesLeaveOtherFieldsAlone :
    (∃ t, exec (.time 0 0 0 0) State.reset = .next t) ∧ ∃ t, exec (.acc 0 0 0 0) State.reset = .next t :=
  ⟨⟨_, rfl⟩, _, rfl⟩

theorem witness_LinesAreOnlyAppendedAndDrained :
    (∃ t, step (ready angleBytes) = .next t) ∧ (ready angleBytes).input.head? ≠ some .reset ∧
    let s : State := { State.reset with input := [.drain 1], out := [ascii "x"] }
    (∃ t, step s = .next t) ∧ s.input.head? ≠ some .reset :=
  ⟨⟨_, rfl⟩, by decide +kernel, ⟨_, rfl⟩, by decide +kernel⟩

theorem witness_UnprintedFieldsReachNoSentence :
    (∃ t, exec (.mag 1 2 3 4) State.reset = .next t) ∧ (∃ t, exec (.quat 1 2 3 4) State.reset = .next t) ∧
    ∃ t, exec (.time 1 2 3 4) State.reset = .next t := ⟨⟨_, rfl⟩, ⟨_, rfl⟩, _, rfl⟩

/-- The four choices of parameters the frame statements speak of. -/
theorem witness_parameters :
    (ready angleBytes).params.numeric = .exact ∧ (ready angleBytes).params.latLon = .ddm ∧
    (ready64 angleBytes).params.numeric = .binary64 ∧ (ready64 angleBytes).params.latLon = .ddm ∧
    (∀ m, (readyE7 m angleBytes).params.latLon = .degE7 ∧ (readyE7 m angleBytes).params.numeric = m) :=
  ⟨rfl, rfl, rfl, rfl, fun _ => ⟨rfl, rfl⟩⟩

/-- A value between two binary64 numbers, and zero. -/
theorem witness_BinaryRoundingIsToNearestEven :
    |(49 / 5 : Rat)| < 2 ^ 1024 - 2 ^ 970 ∧ |(0 : Rat)| < 2 ^ 1024 - 2 ^ 970 := by
  have bound : (100 : Rat) < 2 ^ 1024 - 2 ^ 970 := by
    rw [show (1024 : Nat) = 970 + 54 from rfl, pow_add]
    have one_le : (1 : Rat) ≤ 2 ^ 970 := one_le_pow₀ (by norm_num)
    generalize (2 : Rat) ^ 970 = q at one_le ⊢
    linarith
  rw [abs_of_pos (by norm_num), abs_zero]
  generalize (2 : Rat) ^ 1024 - 2 ^ 970 = b at bound ⊢
  exact ⟨by linarith, by linarith⟩

theorem witness_LineChecksumIsSelfConsistent :
    ∃ l, l ∈ generate .default .zero 0 .initial := ⟨_, List.mem_cons_self ..⟩

/-- The ends of the range of bits. -/
theorem witness_ChecksumFunctionsComputeXorAndHexDigits : 0 < 8 ∧ 7 < 8 := by decide

theorem witness_SentencesCarryTheFieldsOfTheirRules : Params.default.numeric = .exact := rfl

theorem witness_ZeroPositionAndVelocitySuppressTheGpsLines :
    Agg.zero.lat = 0 ∧ Agg.zero.lon = 0 ∧ Agg.zero.gpsVel = 0 := ⟨rfl, rfl, rfl⟩

/-- ACC after a change of declination. -/
theorem witness_FirstFramesAfterResetGiveTenLines :
    let i : Instr := .acc 1 2 3 4
    ({ State.reset with decl := 5 } : State).agg = Agg.zero ∧ (∀ a b, i ≠ .lonlat a b) ∧
      ∀ a b c d, i ≠ .gpsv a b c d := ⟨rfl, nofun, nofun⟩

/-- Both sides of zero, and the upper end of the range. -/
theorem witness_MagneticHeadingIsWrapped : ∀ y ∈ [(-1474515 / 8192 : Rat), 0, 180], -180 < y ∧ y ≤ 180 := by
  decide +kernel

/-- Both clauses of the placeholder statement, where they meet. -/
theorem witness_PlaceholdersCountTheSatellites :
    (7 < 12 ∧ ((7 : Nat) : Int) < max 0 (min 8 12)) ∧ (8 < 12 ∧ max 0 (min 8 12) ≤ ((8 : Nat) : Int)) := by decide

end Sys2Proof.Tests
end

section
/-!
The frame synchronizer: what a feed, and the step that delivers a byte, answers in each of the three cases of R76 to R78.
-/

namespace Sys2Proof.Machine

/-! ### One equation per case of the feed -/

theorem feed_of_unsynced_header (s : State) (h : s.sync = false) :
    feed header s = ({ s with buf := [header], sync := true }, none) := by
  simp [feed, h]

theorem feed_of_unsynced_other (b : Byte) (s : State) (h : s.sync = false) (hb : b ≠ header) :
    feed b s = (s, none) := by
  simp [feed, h, hb]

theorem feed_of_synced_short (b : Byte) (s : State) (h : s.sync = true) (hl : s.buf.length ≤ 9) :
    feed b s = ({ s with buf := s.buf ++ [b] }, none) := by
  simp [feed, h, hl]

theorem feed_of_synced_full (b : Byte) (s : State) (h : s.sync = true) (hl : 10 ≤ s.buf.length) :
    feed b s = ({ s with buf := [], sync := false }, some (s.buf ++ [b])) := by
  have hl' : ¬ s.buf.length ≤ 9 := by omega
  simp [feed, h, hl']

/-! ### The step that delivers a byte -/

theorem blockStep_of_feed_none {b : Byte} {s t : State} (h : feed b s = (t, none)) :
    blockStep b s = .next t := by
  simp [blockStep, h]

theorem blockStep_of_feed_some {b : Byte} {s t : State} {f : Frame} (h : feed b s = (t, some f)) :
    blockStep b s = runCandidate f t := by
  simp [blockStep, h]

theorem step_of_deliver (s : State) (b : Byte) (rest : List HostOp) (h : s.input = .deliver b :: rest) :
    step s = blockStep b (s.advance rest) :=
  step_of_input_cons s (.deliver b) rest h

/-- The step that delivers the eleventh byte runs the candidate from the cleared synchronizer (R75, R78). -/
theorem step_of_deliver_full (s : State) (b : Byte) (rest : List HostOp) (hs : s.sync = true)
    (hl : 10 ≤ s.buf.length) (hin : s.input = .deliver b :: rest) :
    step s = runCandidate (s.buf ++ [b]) { s.advance rest with buf := [], sync := false } := by
  rw [step_of_deliver s b rest hin]
  exact blockStep_of_feed_some (feed_of_synced_full b (s.advance rest) hs hl)

/-! ### What every candidate leaves -/

theorem verdictOf_of_ok {f : Frame} {i : Instr} (h : decodeFrame f = .ok i) : verdictOf f = .ok := by
  simp [verdictOf, h]

theorem verdictOf_of_error {f : Frame} {e : DecodeError} (h : decodeFrame f = .error e) :
    verdictOf f = .error e := by
  simp [verdictOf, h]

/-- Accepted or rejected, a candidate gives a next state with both outputs of the step set, and it touches neither
the synchronizer nor the input (R32, R34, R75). -/
theorem runCandidate_outputs (f : Frame) (s : State) :
    ∃ t, runCandidate f s = .next t ∧ t.candidate = some f ∧ t.verdict = some (verdictOf f) ∧
      t.sync = s.sync ∧ t.buf = s.buf ∧ t.input = s.input := by
  rcases runCandidate_cases f s with ⟨e, hdec, hrun⟩ | ⟨i, hdec, hrun⟩
  · rw [verdictOf_of_error hdec]
    exact ⟨_, hrun, rfl, rfl, rfl, rfl, rfl⟩
  · obtain ⟨a, ts, hexec⟩ := exec_accepts i (s.offer f)
    rw [verdictOf_of_ok hdec]
    exact ⟨_, hrun.trans hexec, rfl, rfl, rfl, rfl, rfl⟩

/-! ### The obligations -/

/-- Settles O11, by the two branches of the unsynchronized feed. -/
theorem unsynchronizedByteStartsAFrameOrIsDiscarded :
    Obligations.UnsynchronizedByteStartsAFrameOrIsDiscarded := by
  intro s b rest hs hin
  rw [step_of_deliver s b rest hin]
  split
  · next hb =>
    subst hb
    exact blockStep_of_feed_none (feed_of_unsynced_header (s.advance rest) hs)
  · next hb => exact blockStep_of_feed_none (feed_of_unsynced_other b (s.advance rest) hs hb)

/-- Settles O12, by the feed's append. -/
theorem synchronizedByteIsAppended : Obligations.SynchronizedByteIsAppended := by
  intro s b rest hs hl hin
  rw [step_of_deliver s b rest hin]
  exact blockStep_of_feed_none (feed_of_synced_short b (s.advance rest) hs hl)

/-- Settles O13: the feed clears the synchronizer, and the candidate's run leaves it so. -/
theorem eleventhByteGivesTheCandidate : Obligations.EleventhByteGivesTheCandidate := by
  intro s b rest hs hl hin
  rw [step_of_deliver_full s b rest hs hl.ge hin]
  obtain ⟨t, hrun, hcand, hverdict, hsync, hbuf, hinput⟩ :=
    runCandidate_outputs (s.buf ++ [b]) { s.advance rest with buf := [], sync := false }
  exact ⟨t, hrun, hcand, hbuf, hsync, hinput, hverdict⟩

end Sys2Proof.Machine
end

section
/-!
The frame types that write sensor values: what each conversion is in either numeric domain, that the conversion of an
angle keeps every raw value but 0 away from zero, and the whole next state of eight of the ten types.
-/

namespace Sys2Proof.Machine

/-! ### The binary64 rounding stays near its argument -/

theorem roundBinary64_zero : roundBinary64 0 = 0 := by
  simp [roundBinary64]

/-- The magnitude the binary64 rounding gives a nonzero number before it looks for an overflow. -/
def roundedMagnitude (x : Rat) : Rat :=
  roundHalfEven (|x| / pow2 (ulpExponent |x|)) * pow2 (ulpExponent |x|)

theorem roundBinary64_eq_of_not_overflow {x : Rat} (hx : x ≠ 0) (h : roundedMagnitude x < pow2 1024) :
    roundBinary64 x = if x < 0 then -roundedMagnitude x else roundedMagnitude x := by
  unfold roundedMagnitude at h ⊢
  simp only [roundBinary64, hx, qabs_eq_abs, if_false, h, if_true]

/-- From the smallest subnormal on, the last significand bit weighs no more than the number. -/
theorem pow2_ulpExponent_le {x : Rat} (h : pow2 (-1074) ≤ x) : pow2 (ulpExponent x) ≤ x := by
  have hpos : 0 < x := (pow2_pos _).trans_le h
  rcases max_choice (binExponent x - 52) (-1074) with hu | hu
  · have hmono : pow2 (binExponent x - 52) ≤ pow2 (binExponent x) := by
      rw [pow2_eq, pow2_eq]
      exact zpow_le_zpow_right₀ one_le_two (by omega)
    rw [ulpExponent, hu]
    exact hmono.trans (binExponent_spec x hpos).1
  · rwa [ulpExponent, hu]

/-- The rounding is off by half a last bit at most, so by half of the number at most. -/
theorem roundedMagnitude_bounds {x : Rat} (h : pow2 (-1074) ≤ |x|) :
    |x| / 2 ≤ roundedMagnitude x ∧ roundedMagnitude x ≤ 3 / 2 * |x| := by
  have hulp : pow2 (ulpExponent |x|) ≤ |x| := pow2_ulpExponent_le h
  have hpos : 0 < pow2 (ulpExponent |x|) := pow2_pos _
  obtain ⟨hlow, hhigh⟩ := abs_le.mp (roundHalfEven_spec (|x| / pow2 (ulpExponent |x|))).1
  unfold roundedMagnitude
  generalize pow2 (ulpExponent |x|) = w at *
  have hquot : |x| / w * w = |x| := div_mul_cancel₀ _ hpos.ne'
  constructor <;> nlinarith

/-- Between the smallest subnormal and 2^1023 nothing rounds to zero or overflows: the rounded value lies between half
the exact one and three halves of it. -/
theorem abs_roundBinary64_bounds {x : Rat} (hlow : pow2 (-1074) ≤ |x|) (hhigh : |x| < pow2 1023) :
    |x| / 2 ≤ |roundBinary64 x| ∧ |roundBinary64 x| ≤ 3 / 2 * |x| := by
  have hpos : 0 < |x| := (pow2_pos _).trans_le hlow
  obtain ⟨hhalf, hthree⟩ := roundedMagnitude_bounds hlow
  have hdouble : pow2 1024 = 2 * pow2 1023 := by
    rw [pow2_eq, pow2_eq]
    exact zpow_one_add₀ two_ne_zero 1023
  have hno : roundedMagnitude x < pow2 1024 := by linarith
  have habs : |roundBinary64 x| = roundedMagnitude x := by
    rw [roundBinary64_eq_of_not_overflow (abs_pos.mp hpos) hno, apply_ite abs, abs_neg, ite_self,
      abs_of_nonneg (by linarith)]
  rw [habs]
  exact ⟨hhalf, hthree⟩

/-- The range in which the decode rules' intermediate values lie is far inside that of `abs_roundBinary64_bounds`. -/
theorem abs_roundBinary64_bounds_of_moderate {x : Rat} (hlow : 1 / 32768 ≤ |x|) (hhigh : |x| ≤ 1024) :
    |x| / 2 ≤ |roundBinary64 x| ∧ |roundBinary64 x| ≤ 3 / 2 * |x| := by
  have hsmall : pow2 (-1074) ≤ 1 / 32768 := by
    have hpow : (1 / 32768 : Rat) = 2 ^ (-15 : Int) := by norm_num
    rw [pow2_eq, hpow]
    exact zpow_le_zpow_right₀ one_le_two (by decide)
  have hlarge : (1024 : Rat) < pow2 1023 := by
    have hpow : (1024 : Rat) = 2 ^ (10 : Int) := by norm_num
    rw [pow2_eq, hpow]
    exact zpow_lt_zpow_right₀ one_lt_two (by decide)
  exact abs_roundBinary64_bounds (hsmall.trans hlow) (hhigh.trans_lt hlarge)

/-! ### The conversions in either numeric domain -/

theorem gyroOf_exact (r : Half) : gyroOf .exact r = r.toInt * (125 / 2048) := by
  simp only [gyroOf, s16, mulN_exact, divN_exact]
  ring

theorem gyroOf_binary64 (r : Half) :
    gyroOf .binary64 r = roundBinary64 (roundBinary64 (r.toInt / 32768) * 2000) := rfl

theorem angleOf_exact (r : Half) : angleOf .exact r = r.toInt * (45 / 8192) := by
  simp only [angleOf, s16, mulN_exact, divN_exact]
  ring

theorem angleOf_binary64 (r : Half) :
    angleOf .binary64 r = roundBinary64 (roundBinary64 (r.toInt / 32768) * 180) := rfl

theorem quatOf_exact (r : Half) : quatOf .exact r = r.toInt / 32768 := rfl

theorem quatOf_binary64 (r : Half) : quatOf .binary64 r = roundBinary64 (r.toInt / 32768) := rfl

theorem tenths_exact (n : Int) : tenths .exact n = n / 10 := rfl

theorem tenths_binary64 (n : Int) : tenths .binary64 n = roundBinary64 (n / 10) := rfl

theorem hundredths_exact (n : Int) : hundredths .exact n = n / 100 := rfl

theorem hundredths_binary64 (n : Int) : hundredths .binary64 n = roundBinary64 (n / 100) := rfl

theorem clampVelocity_eq (v : Rat) : clampVelocity v = if 200 < |v| then 0 else v := by
  rw [clampVelocity, qabs_eq_abs, velLimit]

/-- 200 m/s is 2000 tenths, so in exact arithmetic the clamp may be tested on the raw field (R95). -/
theorem clampVelocity_div_ten (n : Int) :
    clampVelocity ((n : Rat) / 10) = if 2000 < |n| then 0 else (n : Rat) / 10 := by
  have hraw : 200 < |(n : Rat) / 10| ↔ 2000 < |n| := by
    rw [abs_div, abs_of_pos (by norm_num : (0 : Rat) < 10), lt_div_iff₀ (by norm_num), ← Int.cast_abs]
    norm_num
    exact_mod_cast Iff.rfl
  rw [clampVelocity_eq, if_congr hraw rfl rfl]

/-- A nonzero 16-bit field, divided by 2^15, is at least 2^-15 and at most 1 in magnitude. -/
theorem abs_toInt_div_bounds {r : Half} (h : r ≠ 0) :
    1 / 32768 ≤ |(r.toInt : Rat) / 32768| ∧ |(r.toInt : Rat) / 32768| ≤ 1 := by
  have hne : r.toInt ≠ 0 := fun h0 => h (BitVec.toInt_inj.mp h0)
  have hone : (1 : Rat) ≤ |(r.toInt : Rat)| := by exact_mod_cast Int.one_le_abs hne
  have hmax : |(r.toInt : Rat)| ≤ 32768 := by
    have hlow := BitVec.le_toInt r
    have hhigh := BitVec.toInt_lt (x := r)
    have habs : |r.toInt| ≤ 32768 := abs_le.mpr ⟨by omega, by omega⟩
    exact_mod_cast habs
  rw [abs_div, abs_of_pos (by norm_num : (0 : Rat) < 32768)]
  exact ⟨by gcongr, (div_le_one (by norm_num)).mpr hmax⟩

/-- Neither of the two roundings of R91's conversion takes a nonzero raw angle to zero. -/
theorem angleOf_binary64_eq_zero_iff (r : Half) : angleOf .binary64 r = 0 ↔ r = 0 := by
  constructor
  · intro hzero
    by_contra hr
    obtain ⟨hlow, hhigh⟩ := abs_toInt_div_bounds hr
    obtain ⟨hqlow, hqhigh⟩ := abs_roundBinary64_bounds_of_moderate hlow (by linarith)
    have habs : |roundBinary64 (r.toInt / 32768) * 180| = |roundBinary64 (r.toInt / 32768)| * 180 := by
      rw [abs_mul, abs_of_pos (by norm_num : (0 : Rat) < 180)]
    obtain ⟨hplow, -⟩ := abs_roundBinary64_bounds_of_moderate
      (x := roundBinary64 (r.toInt / 32768) * 180) (by linarith) (by linarith)
    rw [← angleOf_binary64, hzero, abs_zero] at hplow
    linarith
  · rintro rfl
    have h0 : ((0 : Half).toInt : Rat) = 0 := by simp
    rw [angleOf_binary64, h0, zero_div, roundBinary64_zero, zero_mul, roundBinary64_zero]

/-- In BINARY64 the negated yaw is -0.0 exactly for a raw yaw of 0 (R91). -/
theorem minusZero_angleOf_binary64 (r : Half) :
    minusZero .binary64 (angleOf .binary64 r) = decide (r = 0) := by
  rw [minusZero_binary64, decide_eq_decide]
  exact angleOf_binary64_eq_zero_iff r

/-! ### The aggregate each frame type commits -/

section
variable (s : State)

theorem exec_gyro (rwx rwy rwz rg4 : Half) :
    exec (.gyro rwx rwy rwz rg4) s = .next (acceptedWith s { s.agg with
      wx := gyroOf s.params.numeric rwx, wy := gyroOf s.params.numeric rwy,
      wz := gyroOf s.params.numeric rwz }) := rfl

theorem exec_angle (rroll rpitch ryaw ra4 : Half) :
    exec (.angle rroll rpitch ryaw ra4) s = .next (acceptedWith s { s.agg with
      roll := angleOf s.params.numeric rroll, pitch := angleOf s.params.numeric rpitch,
      yaw := -angleOf s.params.numeric ryaw,
      yawMinusZero := minusZero s.params.numeric (angleOf s.params.numeric ryaw) }) := rfl

theorem exec_baro (rpress : Word) (ralt rb4 : Half) :
    exec (.baro rpress ralt rb4) s = .next (acceptedWith s { s.agg with
      pressure := hundredths s.params.numeric rpress.toInt,
      baroAlt := hundredths s.params.numeric ralt.toInt }) := rfl

theorem exec_gpsv (rgalt rgvel rghdg rv4 : Half) :
    exec (.gpsv rgalt rgvel rghdg rv4) s = .next (acceptedWith s { s.agg with
      gpsAlt := tenths s.params.numeric rgalt.toInt,
      gpsVel := clampVelocity (tenths s.params.numeric rgvel.toInt),
      gpsHdg := tenths s.params.numeric rghdg.toInt }) := rfl

theorem exec_quat (rq0 rq1 rq2 rq3 : Half) :
    exec (.quat rq0 rq1 rq2 rq3) s = .next (acceptedWith s { s.agg with
      q0 := quatOf s.params.numeric rq0, q1 := quatOf s.params.numeric rq1,
      q2 := quatOf s.params.numeric rq2, q3 := quatOf s.params.numeric rq3 }) := rfl

theorem exec_gpsacc (rsats rpdop rhdop rvdop : Half) :
    exec (.gpsacc rsats rpdop rhdop rvdop) s = .next (acceptedWith s { s.agg with
      sats := rsats.toInt, pdop := hundredths s.params.numeric rpdop.toInt,
      hdop := hundredths s.params.numeric rhdop.toInt,
      vdop := hundredths s.params.numeric rvdop.toInt }) := rfl

end

/-! ### The obligations -/

/-- Settles O37: each clause is the conversion in its domain; the sign of a zero yaw in BINARY64 is
`minusZero_angleOf_binary64`. -/
theorem angleWritesAttitude : Obligations.AngleWritesAttitude := by
  intro rroll rpitch ryaw ra4 s
  constructor
  · intro hm
    simp only [exec_angle, hm, angleOf_exact, minusZero_exact]
  · intro hm
    rw [exec_angle, hm, minusZero_angleOf_binary64]
    simp only [angleOf_binary64]

/-- Settles O34: TIME's meaning writes `ts` and accepts, and the generation does not read `ts`. -/
theorem timeCopiesTheHostTime : Obligations.TimeCopiesTheHostTime :=
  fun _ _ _ _ _ => rfl

/-- Settles O36, by the conversion in each domain. -/
theorem gyroWritesAngularVelocity : Obligations.GyroWritesAngularVelocity := by
  intro rwx rwy rwz rg4 s
  constructor
  · intro hm
    simp only [exec_gyro, hm, gyroOf_exact]
  · intro hm
    simp only [exec_gyro, hm, gyroOf_binary64]

/-- Settles O38: MAG converts nothing, so the numeric domain does not matter. -/
theorem magWritesRawField : Obligations.MagWritesRawField :=
  fun _ _ _ _ _ => rfl

/-- Settles O39, by the hundredths in each domain. -/
theorem baroWritesPressureAndAltitude : Obligations.BaroWritesPressureAndAltitude := by
  intro rpress ralt rb4 s
  constructor
  · intro hm
    simp only [exec_baro, hm, hundredths_exact]
  · intro hm
    simp only [exec_baro, hm, hundredths_binary64]

/-- Settles O41: the tenths in each domain, the clamp tested on the raw field in EXACT and on the rounded value in
BINARY64. -/
theorem gpsvWritesAltitudeVelocityHeading : Obligations.GpsvWritesAltitudeVelocityHeading := by
  intro rgalt rgvel rghdg rv4 s
  constructor
  · intro hm
    simp only [exec_gpsv, hm, tenths_exact, clampVelocity_div_ten]
  · intro hm
    simp only [exec_gpsv, hm, tenths_binary64, clampVelocity_eq]

/-- Settles O42, by the conversion in each domain. -/
theorem quatWritesComponents : Obligations.QuatWritesComponents := by
  intro rq0 rq1 rq2 rq3 s
  constructor
  · intro hm
    simp only [exec_quat, hm, quatOf_exact]
  · intro hm
    simp only [exec_quat, hm, quatOf_binary64]

/-- Settles O43: the satellite count is copied, the three others are hundredths in each domain. -/
theorem gpsaccWritesSatellitesAndDops : Obligations.GpsaccWritesSatellitesAndDops := by
  intro rsats rpdop rhdop rvdop s
  constructor
  · intro hm
    simp only [exec_gpsacc, hm, hundredths_exact]
  · intro hm
    simp only [exec_gpsacc, hm, hundredths_binary64]

end Sys2Proof.Machine
end

section
/-!
The formatter: a number's digits start with no zero, what zero-padding adds to them, how `fix` cuts them at the point;
the wrapped true heading; and the order of a generation.
-/

namespace Sys2Proof.Machine

/-! ### The leading digit -/

theorem digitChar_ne_zero {d : Nat} (hpos : 0 < d) (hlt : d < 10) : digitChar d ≠ 0x30#8 := by
  intro h
  have hval := digitChar_toNat d hlt
  rw [h] at hval
  simp only [BitVec.toNat_ofNat] at hval
  omega

/-- The digits of a positive number start with a digit that is not zero, so `str` is the shortest spelling (R13). -/
theorem digitsOnto_head (fuel n : Nat) (acc : Text) (hfuel : n < 10 ^ fuel) (hpos : 0 < n) :
    ∃ c rest, digitsOnto fuel n acc = c :: rest ∧ c ≠ 0x30#8 := by
  induction fuel generalizing n acc with
  | zero => rw [pow_zero] at hfuel; omega
  | succ fuel ih =>
    simp only [digitsOnto]
    split
    · next hlt => exact ⟨_, acc, rfl, digitChar_ne_zero hpos hlt⟩
    · next hge => exact ih (n / 10) _ (by rw [pow_succ] at hfuel; omega) (by omega)

theorem str_head?_ne_zero {n : Nat} (h : 1 < (str n).length) : (str n).head? ≠ some 0x30#8 := by
  rcases Nat.eq_zero_or_pos n with rfl | hpos
  · exact absurd h (by decide)
  · have hfuel : n < 10 ^ (n.log2 + 1) :=
      Nat.lt_log2_self.trans_le (Nat.pow_le_pow_left (by decide) _)
    obtain ⟨c, rest, heq, hc⟩ := digitsOnto_head (n.log2 + 1) n [] hfuel hpos
    rw [str, heq]
    simpa using hc

/-! ### Zero-padding -/

/-- A text longer than the width asked for has no zero put in front. -/
theorem padZero_of_lt_length {w : Nat} {t : Text} (h : w < (padZero w t).length) : padZero w t = t := by
  rw [padZero_length] at h
  have hw : w - t.length = 0 := by omega
  simp [padZero, hw]

theorem le_padZero_length (w : Nat) (t : Text) : w ≤ (padZero w t).length := by
  rw [padZero_length]
  exact le_max_left _ _

theorem padZero_str_isDigit (w n : Nat) : ∀ c ∈ padZero w (str n), isDigit c = true :=
  padZero_isDigit w (str n) (str_spec n).1

theorem readDigits_padZero_str (w n : Nat) : readDigits (padZero w (str n)) = n := by
  rw [readDigits_padZero, (str_spec n).2.2]

theorem padZero_str_length_pos (w n : Nat) : 0 < (padZero w (str n)).length := by
  rw [padZero_length]
  exact lt_max_of_lt_right (List.length_pos_of_ne_nil (str_spec n).2.1)

/-- A leading zero is only ever padding, or the one digit of 0. -/
theorem padZero_str_head?_ne_zero {w n : Nat} (hw : w < (padZero w (str n)).length)
    (h : 1 < (padZero w (str n)).length) : (padZero w (str n)).head? ≠ some 0x30#8 := by
  rw [padZero_of_lt_length hw] at h ⊢
  exact str_head?_ne_zero h

/-! ### The digits of `fix` -/

/-- The integer `fix(x, k)` prints: |x| × 10^k rounded half to even (R115). -/
def fixScaled (x : Rat) (k : Nat) : Nat := (roundHalfEven (qabs x * 10 ^ k)).toNat

/-- The digits of `fix(x, k)`, the point left out. -/
def fixDigits (x : Rat) (k : Nat) : Text := padZero (k + 1) (str (fixScaled x k))

/-- The digits of `fix(x, k)` before the point. -/
def fixWhole (x : Rat) (k : Nat) : Text := (fixDigits x k).take ((fixDigits x k).length - k)

/-- The digits of `fix(x, k)` after the point. -/
def fixPart (x : Rat) (k : Nat) : Text := (fixDigits x k).drop ((fixDigits x k).length - k)

/-- `fix` is the sign, the whole digits and, unless k is 0, the point and the rest (R115). -/
theorem fix_eq (x : Rat) (k : Nat) :
    fix x k = signOf (x < 0) ++ fixWhole x k ++ (if k = 0 then [] else 0x2E#8 :: fixPart x k) := by
  have hfix : fix x k = signOf (x < 0) ++
      (if k = 0 then fixDigits x k else fixWhole x k ++ [0x2E#8] ++ fixPart x k) := rfl
  rw [hfix]
  split
  · next hk => simp [fixWhole, hk]
  · simp

theorem fixWhole_append_fixPart (x : Rat) (k : Nat) : fixWhole x k ++ fixPart x k = fixDigits x k :=
  List.take_append_drop _ _

theorem succ_le_fixDigits_length (x : Rat) (k : Nat) : k + 1 ≤ (fixDigits x k).length :=
  le_padZero_length _ _

theorem fixWhole_length (x : Rat) (k : Nat) : (fixWhole x k).length = (fixDigits x k).length - k := by
  simp [fixWhole]

theorem fixPart_length (x : Rat) (k : Nat) : (fixPart x k).length = k := by
  have hlen := succ_le_fixDigits_length x k
  rw [fixPart, List.length_drop]
  omega

theorem fixWhole_ne_nil (x : Rat) (k : Nat) : fixWhole x k ≠ [] := by
  have hlen := succ_le_fixDigits_length x k
  have hwhole := fixWhole_length x k
  exact List.ne_nil_of_length_pos (by omega)

/-- More than one whole digit means that the number itself fills them, so none is a needless zero. -/
theorem fixWhole_head?_ne_zero {x : Rat} {k : Nat} (h : 1 < (fixWhole x k).length) :
    (fixWhole x k).head? ≠ some 0x30#8 := by
  rw [fixWhole_length] at h
  have hhead : (fixWhole x k).head? = (fixDigits x k).head? := by
    rw [fixWhole, List.head?_take, if_neg (by omega)]
  have hlong : k + 1 < (fixDigits x k).length := by omega
  rw [hhead]
  exact padZero_str_head?_ne_zero hlong (by rw [← fixDigits]; omega)

/-- The integer printed is a nearest one to |x| × 10^k, and the even one in a tie (R115). -/
theorem fixScaled_spec (x : Rat) (k : Nat) :
    |(fixScaled x k : Rat) - |x| * 10 ^ k| ≤ 1 / 2 ∧
      (|(fixScaled x k : Rat) - |x| * 10 ^ k| = 1 / 2 → fixScaled x k % 2 = 0) := by
  have hnonneg : 0 ≤ roundHalfEven (qabs x * 10 ^ k) :=
    roundHalfEven_nonneg _ (mul_nonneg (qabs_nonneg x) (by positivity))
  have hint : (fixScaled x k : Int) = roundHalfEven (qabs x * 10 ^ k) := Int.toNat_of_nonneg hnonneg
  have hrat : (fixScaled x k : Rat) = roundHalfEven (qabs x * 10 ^ k) := by rw [← hint, Int.cast_natCast]
  obtain ⟨hnear, htie⟩ := roundHalfEven_spec (qabs x * 10 ^ k)
  rw [abs_sub_comm, hrat, ← qabs_eq_abs x]
  exact ⟨hnear, fun h => by have := htie h; omega⟩

/-! ### The order of a generation -/

theorem gpsOn_iff (a : Agg) : gpsOn a = true ↔ ¬(a.lat = 0 ∧ a.lon = 0) := by
  rw [not_and_or]
  simp [gpsOn]

theorem vtgOn_iff (a : Agg) : vtgOn a = true ↔ a.gpsVel ≠ 0 := by
  simp [vtgOn]

/-- The bodies whose condition holds, written out by the two conditions that can fail (R125, R138). -/
theorem generate_eq (p : Params) (a : Agg) (d : Rat) (now : HostTime) :
    generate p a d now =
      ((if gpsOn a then [bodyGGA p a now, bodyRMC p a d now] else []) ++
        (if vtgOn a then [bodyVTG p a] else []) ++
        (if gpsOn a then [bodyGSA p a] else []) ++
        [bodyHDM p a, bodyHDT p a d, bodyROT p a, bodyPitch p a, bodyRoll p a, bodyBaro p a, bodyTemp p a,
          bodyAccX p a, bodyAccY p a, bodyAccZ p a]).map sentenceLine := by
  unfold generate sentenceTable
  cases gpsOn a <;> cases vtgOn a <;> rfl

/-! ### The obligations -/

/-- Settles O52: the heading is a floored modulo by 360, in either domain of its sum. -/
theorem trueHeadingIsWrapped : Obligations.TrueHeadingIsWrapped := by
  intro a d
  constructor
  · intro m
    obtain ⟨hlow, hhigh, -⟩ := floorMod_spec (addN m (magHeading m a) d) 360 (by norm_num)
    exact ⟨hlow, hhigh⟩
  · exact ⟨((magHeading .exact a + d) / 360).floor, rfl⟩

/-- Settles O55: the digits of the rounded integer, cut k before their end. -/
theorem fixPrintsTheNearestDecimal : Obligations.FixPrintsTheNearestDecimal := by
  intro x k
  refine ⟨fixWhole x k, fixPart x k, fix_eq x k, ?_, fixPart_length x k, fixWhole_ne_nil x k,
    fixWhole_head?_ne_zero, ?_⟩
  · rw [fixWhole_append_fixPart]
    exact padZero_str_isDigit _ _
  · rw [fixWhole_append_fixPart, fixDigits, readDigits_padZero_str]
    exact fixScaled_spec x k

/-- Settles O56: the digits are those of |n|, padded to the width the sign leaves. -/
theorem zpadPrintsTheInteger : Obligations.ZpadPrintsTheInteger := by
  intro n w
  have hzpad : zpad n w = signOf (n < 0) ++ padZero (w - (signOf (n < 0)).length) (str n.natAbs) := rfl
  have hpos := padZero_str_length_pos (w - (signOf (n < 0)).length) n.natAbs
  have hpad := le_padZero_length (w - (signOf (n < 0)).length) (str n.natAbs)
  refine ⟨_, hzpad, padZero_str_isDigit _ _, readDigits_padZero_str _ _, List.ne_nil_of_length_pos hpos, ?_, ?_⟩
  · rw [hzpad, List.length_append]
    omega
  · intro hlong
    rw [hzpad, List.length_append] at hlong
    exact padZero_str_head?_ne_zero (by omega)

/-- Settles O48: the conditions of the generation's order are those of R125. -/
theorem generationFollowsTheOrder : Obligations.GenerationFollowsTheOrder := by
  refine ⟨State.accept_out, fun p a d now => ?_⟩
  simp only [generate_eq, gpsOn_iff, vtgOn_iff]

end Sys2Proof.Machine
end

section
/-!
The error verdict, the block's one exception: what a rejected candidate writes.
-/

namespace Sys2Proof.Machine

/-- The validator's error is the verdict of the step, and a rejected candidate reaches no instruction (R153). -/
theorem runCandidate_of_error {f : Frame} {e : DecodeError} (s : State) (h : decodeFrame f = .error e) :
    runCandidate f s = .next ((s.offer f).reject e) := by
  simp only [runCandidate, h]

/-- Settles O16: the eleventh byte clears the synchronizer, and rejecting the candidate writes only the step's two
outputs. -/
theorem rejectedFrameChangesNothingElse : Obligations.RejectedFrameChangesNothingElse := by
  intro s b rest e hs hl hin hdec
  rw [step_of_deliver_full s b rest hs hl.ge hin]
  exact runCandidate_of_error { s.advance rest with buf := [], sync := false } hdec

end Sys2Proof.Machine
end

section
/-!
Frames: the validator's four checks in the words of R55 to R58, what a sealed frame's fields read as, and how one
changed byte moves the checksum.
-/

namespace Sys2Proof

/-! ### The checks of R85 and the conditions of R55 to R58 -/

theorem lengthOk_iff (f : Frame) : f.lengthOk = true ↔ f.length = 11 := by
  simp [Frame.lengthOk]

theorem byteAt_eq_getElem (f : Frame) {o : Nat} (h : o < f.length) : byteAt f o = f[o] := by
  simp [byteAt, h]

/-- A missing byte 0 reads as 0, which is no header. -/
theorem headerOk_iff (f : Frame) : f.headerOk = true ↔ byteAt f 0 = header := by
  cases f with
  | nil => simp [Frame.headerOk, byteAt, header]
  | cons b f => simp [Frame.headerOk, byteAt, header]

/-- For a frame of full length the sum of R57 on integers is the sum on bytes. -/
theorem checksumOk_iff {f : Frame} (h : f.length = 11) : f.checksumOk = true ↔ byteAt f 10 = ck f := by
  have hbyte : f[10]? = some (byteAt f 10) := by
    rw [byteAt_eq_getElem f (by omega), List.getElem?_eq_getElem]
  rw [Frame.checksumOk, hbyte, ← ck_toNat]
  simp [BitVec.toNat_inj]

/-- Is `t` one of the ten recognised tags (R6 `TAGS`)? -/
def recognisedTag (t : Byte) : Bool :=
  (0x50 ≤ t.toNat && t.toNat ≤ 0x55) || (0x57 ≤ t.toNat && t.toNat ≤ 0x5A)

/-- A missing tag byte reads as 0, which is no recognised tag. -/
theorem tagOk_eq (f : Frame) : f.tagOk = recognisedTag (byteAt f 1) := by
  match f with
  | [] => rfl
  | [_] => rfl
  | _ :: _ :: _ => rfl

/-- The dispatch finds an instruction exactly for the recognised tags (R58, R87). -/
theorem decodeTag_isSome (f : Frame) : (decodeTag f).isSome = f.tagOk := by
  rw [tagOk_eq]
  unfold decodeTag
  split
  case h_11 h50 h51 h52 h53 h54 h55 h57 h58 h59 h5A =>
    simp only [imp_false, ← BitVec.toNat_inj, BitVec.toNat_ofNat] at *
    simp only [recognisedTag, Option.isSome_none]
    symm
    simp only [Bool.or_eq_false_iff, Bool.and_eq_false_iff, decide_eq_false_iff_not]
    omega
  all_goals
    next htag => rw [htag]; rfl

/-! ### One equation per case of the validator -/

theorem decodeFrame_of_not_framed {f : Frame} (h : ¬(f.lengthOk = true ∧ f.headerOk = true)) :
    decodeFrame f = .error .framingError := by
  rw [lengthOk_iff, headerOk_iff, not_and_or] at h
  rw [decodeFrame, if_pos h]

theorem decodeFrame_of_checksum_bad {f : Frame} (hlen : f.lengthOk = true) (hhead : f.headerOk = true)
    (hsum : f.checksumOk = false) : decodeFrame f = .error .checksumMismatch := by
  rw [lengthOk_iff] at hlen
  rw [headerOk_iff] at hhead
  rw [← Bool.not_eq_true, checksumOk_iff hlen] at hsum
  simp [decodeFrame, hlen, hhead, hsum]

/-- Past the first three checks the tag decides (R85). -/
theorem decodeFrame_of_checksum_ok {f : Frame} (hlen : f.lengthOk = true) (hhead : f.headerOk = true)
    (hsum : f.checksumOk = true) :
    decodeFrame f = (decodeTag f).elim (.error .unknownPacketType) .ok := by
  rw [lengthOk_iff] at hlen
  rw [headerOk_iff] at hhead
  rw [checksumOk_iff hlen] at hsum
  simp only [decodeFrame, hlen, hhead, hsum, ne_eq, not_true_eq_false, or_self, if_false]
  cases decodeTag f <;> rfl

theorem decodeFrame_of_tag_bad {f : Frame} (hlen : f.lengthOk = true) (hhead : f.headerOk = true)
    (hsum : f.checksumOk = true) (htag : f.tagOk = false) :
    decodeFrame f = .error .unknownPacketType := by
  rw [← decodeTag_isSome, Option.isSome_eq_false_iff, Option.isNone_iff_eq_none] at htag
  rw [decodeFrame_of_checksum_ok hlen hhead hsum, htag, Option.elim_none]

theorem decodeFrame_of_tag_ok {f : Frame} (hlen : f.lengthOk = true) (hhead : f.headerOk = true)
    (hsum : f.checksumOk = true) (htag : f.tagOk = true) : ∃ i, decodeFrame f = .ok i := by
  rw [← decodeTag_isSome] at htag
  obtain ⟨i, hi⟩ := Option.isSome_iff_exists.mp htag
  exact ⟨i, by rw [decodeFrame_of_checksum_ok hlen hhead hsum, hi, Option.elim_some]⟩

theorem wellFormed_iff (f : Frame) : f.wellFormed = true ↔
    f.lengthOk = true ∧ f.headerOk = true ∧ f.checksumOk = true ∧ f.tagOk = true := by
  simp only [Frame.wellFormed, Bool.and_eq_true, and_assoc]

/-- What acceptance says of a frame (R85). -/
theorem decodeFrame_eq_ok_iff (f : Frame) (i : Instr) : decodeFrame f = .ok i ↔
    f.lengthOk = true ∧ f.headerOk = true ∧ f.checksumOk = true ∧ decodeTag f = some i := by
  constructor
  · intro h
    by_cases hframed : f.lengthOk = true ∧ f.headerOk = true
    · obtain ⟨hlen, hhead⟩ := hframed
      cases hsum : f.checksumOk with
      | false => rw [decodeFrame_of_checksum_bad hlen hhead hsum] at h; cases h
      | true =>
        rw [decodeFrame_of_checksum_ok hlen hhead hsum] at h
        cases htag : decodeTag f with
        | none => rw [htag] at h; cases h
        | some i' => rw [htag] at h; cases h; exact ⟨hlen, hhead, rfl, rfl⟩
    · rw [decodeFrame_of_not_framed hframed] at h; cases h
  · rintro ⟨hlen, hhead, hsum, htag⟩
    rw [decodeFrame_of_checksum_ok hlen hhead hsum, htag, Option.elim_some]

/-! ### The fields of a sealed frame -/

theorem u16le_sealFrame_fourHalves (tag : Byte) (a b c d : Half) :
    u16le (sealFrame tag (fourHalves a b c d)) 2 = a ∧ u16le (sealFrame tag (fourHalves a b c d)) 4 = b ∧
      u16le (sealFrame tag (fourHalves a b c d)) 6 = c ∧ u16le (sealFrame tag (fourHalves a b c d)) 8 = d :=
  ⟨joinBytes_of_half a, joinBytes_of_half b, joinBytes_of_half c, joinBytes_of_half d⟩

theorem fields_sealFrame_word_halves (tag : Byte) (x : Word) (a b : Half) :
    u32le (sealFrame tag (wordBytes x ++ halfBytes a ++ halfBytes b)) 2 = x ∧
      u16le (sealFrame tag (wordBytes x ++ halfBytes a ++ halfBytes b)) 6 = a ∧
      u16le (sealFrame tag (wordBytes x ++ halfBytes a ++ halfBytes b)) 8 = b :=
  ⟨joinHalves_of_word x, joinBytes_of_half a, joinBytes_of_half b⟩

theorem u32le_sealFrame_two_words (tag : Byte) (x y : Word) :
    u32le (sealFrame tag (wordBytes x ++ wordBytes y)) 2 = x ∧
      u32le (sealFrame tag (wordBytes x ++ wordBytes y)) 6 = y :=
  ⟨joinHalves_of_word x, joinHalves_of_word y⟩

/-- The tag and the fields of an encoded frame give its instruction back (R60). -/
theorem decodeTag_encode (i : Instr) : decodeTag (encode i) = some i := by
  cases i with
  | time a b c d | acc a b c d | gyro a b c d | angle a b c d | mag a b c d | gpsv a b c d | quat a b c d
  | gpsacc a b c d =>
    obtain ⟨ha, hb, hc, hd⟩ := u16le_sealFrame_fourHalves _ a b c d
    simp only [encode]
    unfold decodeTag
    rw [ha, hb, hc, hd]
    rfl
  | baro x a b =>
    obtain ⟨hx, ha, hb⟩ := fields_sealFrame_word_halves 0x55#8 x a b
    simp only [encode]
    unfold decodeTag
    rw [hx, ha, hb]
    rfl
  | lonlat x y =>
    obtain ⟨hx, hy⟩ := u32le_sealFrame_two_words 0x57#8 x y
    simp only [encode]
    unfold decodeTag
    rw [hx, hy]
    rfl

theorem encode_wellFormed (i : Instr) : (encode i).wellFormed = true := by
  cases i with
  | time a b c d => exact Laws.EncodedFrame.time a b c d
  | acc a b c d => exact Laws.EncodedFrame.acc a b c d
  | gyro a b c d => exact Laws.EncodedFrame.gyro a b c d
  | angle a b c d => exact Laws.EncodedFrame.angle a b c d
  | mag a b c d => exact Laws.EncodedFrame.mag a b c d
  | baro x a b => exact Laws.EncodedFrame.baro x a b
  | lonlat x y => exact Laws.EncodedFrame.lonlat x y
  | gpsv a b c d => exact Laws.EncodedFrame.gpsv a b c d
  | quat a b c d => exact Laws.EncodedFrame.quat a b c d
  | gpsacc a b c d => exact Laws.EncodedFrame.gpsacc a b c d

/-! ### A frame rebuilt from its fields -/

/-- The eight payload bytes of a frame (R55). -/
def payloadOf (f : Frame) : List Byte :=
  [byteAt f 2, byteAt f 3, byteAt f 4, byteAt f 5, byteAt f 6, byteAt f 7, byteAt f 8, byteAt f 9]

theorem fourHalves_u16le (f : Frame) :
    fourHalves (u16le f 2) (u16le f 4) (u16le f 6) (u16le f 8) = payloadOf f := by
  simp [fourHalves, u16le, payloadOf]

theorem word_halves_of_fields (f : Frame) :
    wordBytes (u32le f 2) ++ halfBytes (u16le f 6) ++ halfBytes (u16le f 8) = payloadOf f := by
  simp [u32le, u16le, payloadOf]

theorem two_words_of_fields (f : Frame) : wordBytes (u32le f 2) ++ wordBytes (u32le f 6) = payloadOf f := by
  simp [u32le, u16le, payloadOf]

/-- The layouts of R60 use every payload byte, so the tag and the payload are those of the frame. -/
theorem encode_of_decodeTag {f : Frame} {i : Instr} (h : decodeTag f = some i) :
    encode i = sealFrame (byteAt f 1) (payloadOf f) := by
  unfold decodeTag at h
  split at h
  case h_11 => cases h
  all_goals
    next htag =>
      cases h
      simp only [encode, fourHalves_u16le, word_halves_of_fields, two_words_of_fields, htag]

/-- A frame that passes the first three checks is its own tag and payload, sealed (R55, R57). -/
theorem sealFrame_of_checks {f : Frame} (hlen : f.length = 11) (hhead : byteAt f 0 = header)
    (hsum : byteAt f 10 = ck f) : sealFrame (byteAt f 1) (payloadOf f) = f := by
  match f, hlen with
  | [b0, b1, b2, b3, b4, b5, b6, b7, b8, b9, b10], _ =>
    change b0 = header at hhead
    change b10 = ck [b0, b1, b2, b3, b4, b5, b6, b7, b8, b9] at hsum
    rw [hsum, hhead]
    rfl

/-! ### Sealing ten bytes -/

/-- Ten bytes with their checksum behind them pass the length and checksum checks; the other two read only the ten. -/
theorem checks_append_ck {g : Frame} (h : g.length = 10) :
    Frame.lengthOk (g ++ [ck g]) = true ∧ Frame.headerOk (g ++ [ck g]) = g.headerOk ∧
      Frame.checksumOk (g ++ [ck g]) = true ∧ Frame.tagOk (g ++ [ck g]) = g.tagOk := by
  have hlen : (g ++ [ck g]).length = 11 := by simp [h]
  refine ⟨(lengthOk_iff _).mpr hlen, ?_, ?_, ?_⟩
  · rw [Frame.headerOk, Frame.headerOk, List.getElem?_append_left (by omega)]
  · rw [checksumOk_iff hlen, ck_append g _ h]
    simp [byteAt, h]
  · rw [Frame.tagOk, Frame.tagOk, List.getElem?_append_left (by omega)]

/-! ### One byte changed -/

theorem byteAt_set_self {f : Frame} {k : Nat} (b : Byte) (h : k < f.length) : byteAt (f.set k b) k = b := by
  simp [byteAt, h]

theorem byteAt_set_of_ne (f : Frame) {k o : Nat} (b : Byte) (h : k ≠ o) :
    byteAt (f.set k b) o = byteAt f o := by
  simp [byteAt, List.getElem?_set_ne h]

/-- A byte under the checksum moves it by its own change (R57). -/
theorem ck_set {f : Frame} {k : Nat} (b : Byte) (hk : k < 10) (hf : k < f.length) :
    ck (f.set k b) = ck f + (b - byteAt f k) := by
  have hlen : k < (f.take 10).length := by rw [List.length_take]; omega
  rw [ck, List.take_set, List.sum_set', dif_pos hlen, List.getElem_take, byteAt_eq_getElem f hf, ck]
  ring

/-- The checksum byte is not under the checksum. -/
theorem ck_set_ten (f : Frame) (b : Byte) : ck (f.set 10 b) = ck f := by
  rw [ck, List.take_set_of_le (le_refl 10), ck]

/-- A changed byte 0 is no header. -/
theorem decodeFrame_set_header {f : Frame} {b : Byte} (hlen : f.length = 11) (hhead : byteAt f 0 = header)
    (hb : b ≠ byteAt f 0) : decodeFrame (f.set 0 b) = .error .framingError := by
  apply decodeFrame_of_not_framed
  rw [headerOk_iff, byteAt_set_self b (by omega), ← hhead]
  exact fun h => hb h.2

/-- Any other changed byte breaks the sum: either the sum moves or the byte it is compared with does. -/
theorem decodeFrame_set_other {f : Frame} {k : Nat} {b : Byte} (hlen : f.length = 11)
    (hhead : byteAt f 0 = header) (hsum : byteAt f 10 = ck f) (hk0 : k ≠ 0) (hk : k < 11)
    (hb : b ≠ byteAt f k) : decodeFrame (f.set k b) = .error .checksumMismatch := by
  have hlen' : (f.set k b).length = 11 := by rw [List.length_set, hlen]
  apply decodeFrame_of_checksum_bad
  · rwa [lengthOk_iff]
  · rwa [headerOk_iff, byteAt_set_of_ne f b hk0]
  · rw [← Bool.not_eq_true, checksumOk_iff hlen']
    rcases Nat.lt_succ_iff_lt_or_eq.mp hk with hlt | rfl
    · rw [byteAt_set_of_ne f b (by omega), hsum, ck_set b hlt (by omega), left_eq_add, sub_eq_zero]
      exact hb
    · rw [byteAt_set_self b (by omega), ck_set_ten, ← hsum]
      exact hb

theorem xor_shiftLeft_one_ne (b : Byte) {j : Nat} (h : j < 8) : b ^^^ (1#8 <<< j) ≠ b := by
  intro heq
  have hbit := congrArg (fun v : Byte => v.getLsbD j) heq
  simp [h] at hbit

/-! ### What the checksum cannot see -/

/-- Of the ten bytes under the checksum the order of the last nine is not seen. -/
theorem ck_eq_header_add {f : Frame} (h : f.length = 11) : ck f = byteAt f 0 + ((f.drop 1).take 9).sum := by
  match f, h with
  | b :: f, _ => simp [ck, byteAt]

/-! ### The obligations -/

/-- Settles O1: the encoding is well formed, and its tag and fields give the instruction back. -/
theorem decodeOfEncodeIsTheInstruction : Obligations.DecodeOfEncodeIsTheInstruction := by
  intro i
  obtain ⟨hlen, hhead, hsum, -⟩ := (wellFormed_iff _).mp (encode_wellFormed i)
  exact (decodeFrame_eq_ok_iff _ i).mpr ⟨hlen, hhead, hsum, decodeTag_encode i⟩

/-- Settles O2: both the frame and the encoding are the frame's tag and payload, sealed. -/
theorem acceptedFrameIsItsEncoding : Obligations.AcceptedFrameIsItsEncoding := by
  intro f i h
  obtain ⟨hlen, hhead, hsum, htag⟩ := (decodeFrame_eq_ok_iff f i).mp h
  rw [lengthOk_iff] at hlen
  rw [headerOk_iff] at hhead
  rw [checksumOk_iff hlen] at hsum
  rw [encode_of_decodeTag htag, sealFrame_of_checks hlen hhead hsum]

/-- Settles O3, one equation of the validator per clause. -/
theorem firstFailingCheckGivesTheVerdict : Obligations.FirstFailingCheckGivesTheVerdict := by
  intro f
  refine ⟨decodeFrame_of_not_framed, decodeFrame_of_checksum_bad, decodeFrame_of_tag_bad, fun h => ?_⟩
  obtain ⟨hlen, hhead, hsum, htag⟩ := (wellFormed_iff f).mp h
  exact decodeFrame_of_tag_ok hlen hhead hsum htag

end Sys2Proof

namespace Sys2Proof.Machine

/-- Settles O4: sealing settles the length and the checksum, so header and tag decide. -/
theorem sealedBytesAreAcceptedByHeaderAndTag : Obligations.SealedBytesAreAcceptedByHeaderAndTag := by
  intro g hg
  obtain ⟨hlen, hhead, hsum, htag⟩ := checks_append_ck hg
  refine ⟨fun hh ht => ?_, fun hh => ?_, fun hh ht => ?_⟩
  · obtain ⟨i, hi⟩ := decodeFrame_of_tag_ok hlen (hhead.trans hh) hsum (htag.trans ht)
    exact verdictOf_of_ok hi
  · apply verdictOf_of_error (decodeFrame_of_not_framed _)
    rw [hhead, hh]
    simp
  · exact verdictOf_of_error (decodeFrame_of_tag_bad hlen (hhead.trans hh) hsum (htag.trans ht))

/-- Settles O5: a flipped bit changes its byte, and every byte but the header moves one side of the checksum
comparison alone. -/
theorem singleBitFlipIsCaught : Obligations.SingleBitFlipIsCaught := by
  intro f i h k j hk hj
  obtain ⟨hlen, hhead, hsum, -⟩ := (decodeFrame_eq_ok_iff f i).mp h
  rw [lengthOk_iff] at hlen
  rw [headerOk_iff] at hhead
  rw [checksumOk_iff hlen] at hsum
  have hflip := xor_shiftLeft_one_ne (byteAt f k) hj
  split
  · next hk0 =>
    subst hk0
    exact decodeFrame_set_header hlen hhead hflip
  · next hk0 => exact decodeFrame_set_other hlen hhead hsum hk0 hk hflip

/-- Settles O6: a permutation keeps the sum of bytes 1 to 9, and the two changes of ±k add up to none. -/
theorem checksumMissesPermutationsAndCompensation : Obligations.ChecksumMissesPermutationsAndCompensation := by
  constructor
  · intro f g hf hg h0 h10 hperm
    rw [Bool.eq_iff_iff, checksumOk_iff hf, checksumOk_iff hg, ck_eq_header_add hf, ck_eq_header_add hg, h0, h10,
      hperm.sum_eq]
  · intro f a b k hf ha ha' hb hb' hab
    have hfa : (f.set a (byteAt f a + k)).length = 11 := by rw [List.length_set, hf]
    have hfb : ((f.set a (byteAt f a + k)).set b (byteAt f b - k)).length = 11 := by rw [List.length_set, hfa]
    have hck : ck ((f.set a (byteAt f a + k)).set b (byteAt f b - k)) = ck f := by
      rw [ck_set _ (by omega) (by omega), ck_set _ (by omega) (by omega), byteAt_set_of_ne f _ hab]
      ring
    rw [Bool.eq_iff_iff, checksumOk_iff hfb, checksumOk_iff hf, hck, byteAt_set_of_ne _ _ (by omega),
      byteAt_set_of_ne _ _ (by omega)]

/-- Settles O7: past the first three checks the verdict is that of the tag's two ranges. -/
theorem unrecognisedTagsAreTheOther246 : Obligations.UnrecognisedTagsAreTheOther246 := by
  refine ⟨fun f hlen hhead hsum => ?_, by decide +kernel⟩
  have htag : decodeFrame f = .error .unknownPacketType ↔ f.tagOk = false := by
    constructor
    · intro h
      by_contra hok
      obtain ⟨i, hi⟩ := decodeFrame_of_tag_ok hlen hhead hsum (eq_true_of_ne_false hok)
      rw [hi] at h
      cases h
    · exact decodeFrame_of_tag_bad hlen hhead hsum
  rw [htag, tagOk_eq, recognisedTag]
  simp only [Bool.or_eq_false_iff, Bool.and_eq_false_iff, decide_eq_false_iff_not]
  omega

/-- Settles O8: each of the three checks names another error, and past them the frame is accepted. -/
theorem conversionErrorIsNeverGiven : Obligations.ConversionErrorIsNeverGiven := by
  intro f h
  unfold decodeFrame at h
  split at h
  · cases h
  · split at h
    · cases h
    · split at h <;> cases h

/-- Settles O9, by running the decoder on the five frames. -/
theorem sampleFramesDecode : Obligations.SampleFramesDecode :=
  ⟨rfl, rfl, rfl, rfl, rfl⟩

/-- Settles O10, by the table itself. -/
theorem verdictCodesAreTheTable : Obligations.VerdictCodesAreTheTable :=
  ⟨rfl, rfl, rfl, rfl, rfl⟩

end Sys2Proof.Machine
end

section
/-!
The step: one relation that says everything it can do, and from it the invariants, who writes what, and what the host's
operations answer.
-/

namespace Sys2Proof.Machine

/-! ### Everything a step can do -/

/-- The state in which a completed frame is validated: the byte consumed, the synchronizer cleared, the frame offered
(R75, R78). -/
def State.complete (s : State) (b : Byte) (rest : List HostOp) : State :=
  { s with
    sync := false, buf := [], input := rest, verdict := none, candidate := some (s.buf ++ [b]) }

/-- The moves of the machine that answer a next state, one constructor per rule (R75 to R78, R159, R167, R170). -/
inductive StepTo (s : State) : State → Prop where
  | idle (hin : s.input = []) : StepTo s s.quiet
  | start (rest : List HostOp) (hin : s.input = .deliver header :: rest) (hsync : s.sync = false) :
      StepTo s { s.advance rest with buf := [header], sync := true }
  | discard (b : Byte) (rest : List HostOp) (hin : s.input = .deliver b :: rest) (hsync : s.sync = false)
      (hb : b ≠ header) : StepTo s (s.advance rest)
  | append (b : Byte) (rest : List HostOp) (hin : s.input = .deliver b :: rest) (hsync : s.sync = true)
      (hlen : s.buf.length ≤ 9) : StepTo s { s.advance rest with buf := s.buf ++ [b] }
  | rejected (b : Byte) (rest : List HostOp) (e : DecodeError) (hin : s.input = .deliver b :: rest)
      (hsync : s.sync = true) (hlen : 10 ≤ s.buf.length) (hdec : decodeFrame (s.buf ++ [b]) = .error e) :
      StepTo s ((s.complete b rest).reject e)
  | accepted (b : Byte) (rest : List HostOp) (i : Instr) (t : State) (hin : s.input = .deliver b :: rest)
      (hsync : s.sync = true) (hlen : 10 ≤ s.buf.length) (hdec : decodeFrame (s.buf ++ [b]) = .ok i)
      (hexec : exec i (s.complete b rest) = .next t) : StepTo s t
  | setDecl (d : Rat) (rest : List HostOp) (hin : s.input = .setDecl d :: rest) :
      StepTo s ((s.advance rest).setDecl d)
  | setTime (x : HostTime) (rest : List HostOp) (hin : s.input = .setTime x :: rest) :
      StepTo s ((s.advance rest).setTime x)
  | drain (k : Nat) (rest : List HostOp) (hin : s.input = .drain k :: rest) (hk : k ≤ s.out.length) :
      StepTo s { s.advance rest with out := s.out.drop k }
  | reset (rest : List HostOp) (hin : s.input = .reset :: rest) : StepTo s (s.advance rest).resetBlock

theorem runCandidate_of_ok {f : Frame} {i : Instr} (s : State) (h : decodeFrame f = .ok i) :
    runCandidate f s = exec i (s.offer f) := by
  simp only [runCandidate, h]

theorem step_of_deliver_rejected {s : State} {b : Byte} {rest : List HostOp} {e : DecodeError}
    (hin : s.input = .deliver b :: rest) (hsync : s.sync = true) (hlen : 10 ≤ s.buf.length)
    (hdec : decodeFrame (s.buf ++ [b]) = .error e) : step s = .next ((s.complete b rest).reject e) := by
  rw [step_of_deliver_full s b rest hsync hlen hin]
  exact runCandidate_of_error { s.advance rest with buf := [], sync := false } hdec

theorem step_of_deliver_accepted {s : State} {b : Byte} {rest : List HostOp} {i : Instr}
    (hin : s.input = .deliver b :: rest) (hsync : s.sync = true) (hlen : 10 ≤ s.buf.length)
    (hdec : decodeFrame (s.buf ++ [b]) = .ok i) : step s = exec i (s.complete b rest) := by
  rw [step_of_deliver_full s b rest hsync hlen hin]
  exact runCandidate_of_ok { s.advance rest with buf := [], sync := false } hdec

theorem step_of_drain (s : State) (k : Nat) (rest : List HostOp) (hin : s.input = .drain k :: rest) :
    step s = (s.advance rest).drain k :=
  step_of_input_cons s (.drain k) rest hin

/-- Each move is the step's answer. -/
theorem step_of_stepTo {s t : State} (h : StepTo s t) : step s = .next t := by
  cases h with
  | idle hin => exact step_of_input_nil s hin
  | start rest hin hsync =>
    rw [step_of_deliver s header rest hin]
    exact blockStep_of_feed_none (feed_of_unsynced_header (s.advance rest) hsync)
  | discard b rest hin hsync hb =>
    rw [step_of_deliver s b rest hin]
    exact blockStep_of_feed_none (feed_of_unsynced_other b (s.advance rest) hsync hb)
  | append b rest hin hsync hlen =>
    rw [step_of_deliver s b rest hin]
    exact blockStep_of_feed_none (feed_of_synced_short b (s.advance rest) hsync hlen)
  | rejected b rest e hin hsync hlen hdec =>
    exact step_of_deliver_rejected hin hsync hlen hdec
  | accepted b rest i t hin hsync hlen hdec hexec =>
    exact (step_of_deliver_accepted hin hsync hlen hdec).trans hexec
  | setDecl d rest hin => exact step_of_input_cons s (.setDecl d) rest hin
  | setTime x rest hin => exact step_of_input_cons s (.setTime x) rest hin
  | drain k rest hin hk =>
    rw [step_of_drain s k rest hin, State.drain, if_pos (show k ≤ (s.advance rest).out.length from hk)]
    rfl
  | reset rest hin => exact step_of_input_cons s .reset rest hin

/-- Every state makes one of the moves, unless the host asks for more lines than `out` holds (R155, log 7). -/
theorem exists_stepTo_or_drain_beyond (s : State) :
    (∃ t, StepTo s t) ∨ ∃ k rest, s.input = .drain k :: rest ∧ s.out.length < k := by
  cases hin : s.input with
  | nil => exact .inl ⟨_, .idle hin⟩
  | cons op rest =>
    cases op with
    | deliver b =>
      left
      cases hsync : s.sync with
      | false =>
        by_cases hb : b = header
        · subst hb; exact ⟨_, .start rest hin hsync⟩
        · exact ⟨_, .discard b rest hin hsync hb⟩
      | true =>
        by_cases hlen : s.buf.length ≤ 9
        · exact ⟨_, .append b rest hin hsync hlen⟩
        · cases hdec : decodeFrame (s.buf ++ [b]) with
          | error e => exact ⟨_, .rejected b rest e hin hsync (by omega) hdec⟩
          | ok i =>
            obtain ⟨a, ts, hexec⟩ := exec_accepts i (s.complete b rest)
            exact ⟨_, .accepted b rest i _ hin hsync (by omega) hdec hexec⟩
    | setDecl d => exact .inl ⟨_, .setDecl d rest hin⟩
    | setTime x => exact .inl ⟨_, .setTime x rest hin⟩
    | drain k =>
      by_cases hk : k ≤ s.out.length
      · exact .inl ⟨_, .drain k rest hin hk⟩
      · exact .inr ⟨k, rest, rfl, by omega⟩
    | reset => exact .inl ⟨_, .reset rest hin⟩

theorem step_of_drain_beyond {s : State} {k : Nat} {rest : List HostOp} (hin : s.input = .drain k :: rest)
    (hk : s.out.length < k) : step s = .refused (.drainBeyondOutput k s.out.length) := by
  rw [step_of_drain s k rest hin, State.drain, if_neg (show ¬k ≤ (s.advance rest).out.length from not_le.mpr hk)]
  rfl

/-- The relation is the step: its moves are all the next states there are. -/
theorem step_eq_next_iff {s t : State} : step s = .next t ↔ StepTo s t := by
  refine ⟨fun h => ?_, step_of_stepTo⟩
  rcases exists_stepTo_or_drain_beyond s with ⟨t', ht'⟩ | ⟨k, rest, hin, hk⟩
  · have heq := (step_of_stepTo ht').symm.trans h
    cases heq
    exact ht'
  · rw [step_of_drain_beyond hin hk] at h
    cases h

/-! ### What an accepted frame writes -/

/-- `exec` answers one accepted state, in which only the aggregate and the timestamp are the frame's own. -/
theorem exec_next {i : Instr} {s t : State} (h : exec i s = .next t) :
    ∃ a ts, t = { s with agg := a, ts := ts }.accept := by
  obtain ⟨a, ts, hexec⟩ := exec_accepts i s
  exact ⟨a, ts, by rw [hexec] at h; cases h; rfl⟩

theorem exec_acc (rax ray raz rtemp : Half) (s : State) :
    exec (.acc rax ray raz rtemp) s = .next (acceptedWith s { s.agg with
      ax := accelOf s.params.numeric rax, ay := accelOf s.params.numeric ray,
      az := accelOf s.params.numeric raz, temp := hundredths s.params.numeric rtemp.toInt }) := rfl

theorem exec_lonlat (rlon rlat : Word) (s : State) :
    exec (.lonlat rlon rlat) s = .next (acceptedWith s { s.agg with
      lon := geo s.params rlon.toInt, lat := geo s.params rlat.toInt }) := rfl

/-- Only TIME writes the timestamp, and it writes the time input (R27, R88). -/
theorem exec_ts {i : Instr} {s t : State} (h : exec i s = .next t) :
    t.ts = s.ts ∨ t.ts = some s.now ∧ ∃ a b c d, i = .time a b c d := by
  cases i with
  | time a b c d => cases h; exact .inr ⟨rfl, a, b, c, d, rfl⟩
  | acc | gyro | angle | mag | baro | lonlat | gpsv | quat | gpsacc => cases h; exact .inl rfl

/-- No frame type reads the timestamp (R27). -/
theorem exec_of_ts_changed {i : Instr} {s t : State} (x : Option HostTime) (h : exec i s = .next t) :
    ∃ y, exec i { s with ts := x } = .next { t with ts := y } := by
  cases i <;> (cases h; exact ⟨_, rfl⟩)

/-! ### The invariants -/

section
variable (s : State) (b : Byte) (rest : List HostOp)

@[simp] theorem State.complete_sync : (s.complete b rest).sync = false := rfl
@[simp] theorem State.complete_buf : (s.complete b rest).buf = [] := rfl
@[simp] theorem State.complete_agg : (s.complete b rest).agg = s.agg := rfl
@[simp] theorem State.complete_ts : (s.complete b rest).ts = s.ts := rfl
@[simp] theorem State.complete_decl : (s.complete b rest).decl = s.decl := rfl
@[simp] theorem State.complete_out : (s.complete b rest).out = s.out := rfl
@[simp] theorem State.complete_now : (s.complete b rest).now = s.now := rfl
@[simp] theorem State.complete_input : (s.complete b rest).input = rest := rfl
@[simp] theorem State.complete_candidate : (s.complete b rest).candidate = some (s.buf ++ [b]) := rfl
@[simp] theorem State.complete_params : (s.complete b rest).params = s.params := rfl

end

theorem syncInv_of_unsynced {s : State} (hsync : s.sync = false) (hbuf : s.buf = []) : SyncInv s :=
  ⟨fun _ => hbuf, fun h => absurd hsync (by rw [h]; decide)⟩

theorem syncInv_of_synced {s : State} (hsync : s.sync = true) (hpos : 1 ≤ s.buf.length)
    (hlen : s.buf.length ≤ 10) (hhead : s.buf.head? = some 0x55#8) : SyncInv s :=
  ⟨fun h => absurd hsync (by rw [h]; decide), fun _ => ⟨hpos, hlen, hhead⟩⟩

/-- The invariant reads the flag and the buffer alone. -/
theorem syncInv_congr {s t : State} (hsync : t.sync = s.sync) (hbuf : t.buf = s.buf) (h : SyncInv s) :
    SyncInv t := by
  unfold SyncInv
  rwa [hsync, hbuf]

theorem stepTo_keeps_syncInv {s t : State} (hs : SyncInv s) (h : StepTo s t) : SyncInv t := by
  cases h with
  | idle | discard | setDecl | setTime | drain => exact syncInv_congr rfl rfl hs
  | start => exact syncInv_of_synced rfl (by simp) (by simp) rfl
  | append b rest hin hsync hlen =>
    obtain ⟨hpos, -, hhead⟩ := hs.2 hsync
    have hlong : (s.buf ++ [b]).length = s.buf.length + 1 := by simp
    refine syncInv_of_synced hsync ?_ ?_ ?_
    · exact hlong ▸ Nat.le_add_left 1 _
    · exact hlong ▸ Nat.succ_le_succ hlen
    · exact List.head?_append_of_ne_nil _ (List.ne_nil_of_length_pos hpos) ▸ hhead
  | rejected => exact syncInv_of_unsynced rfl rfl
  | accepted b rest i t hin hsync hlen hdec hexec =>
    obtain ⟨a, ts, rfl⟩ := exec_next hexec
    exact syncInv_of_unsynced rfl rfl
  | reset => exact syncInv_of_unsynced rfl rfl

/-- A candidate of the stream path has eleven bytes and the header, since the synchronizer held ten that begin with
it (R99). -/
theorem decodeFrame_ne_framingError {s : State} (b : Byte) (hs : SyncInv s) (hsync : s.sync = true)
    (hlen : 10 ≤ s.buf.length) : decodeFrame (s.buf ++ [b]) ≠ .error .framingError := by
  obtain ⟨-, hmax, hhead⟩ := hs.2 hsync
  have hlenOk : Frame.lengthOk (s.buf ++ [b]) = true := by rw [lengthOk_iff, List.length_append]; simp; omega
  have hheadOk : Frame.headerOk (s.buf ++ [b]) = true := by
    rw [Frame.headerOk, List.getElem?_append_left (by omega), ← List.head?_eq_getElem?, hhead, beq_self_eq_true]
  cases hsum : Frame.checksumOk (s.buf ++ [b]) with
  | false => rw [decodeFrame_of_checksum_bad hlenOk hheadOk hsum]; nofun
  | true =>
    rw [decodeFrame_of_checksum_ok hlenOk hheadOk hsum]
    cases decodeTag (s.buf ++ [b]) <;> nofun

/-- A generation appends whole lines only. -/
theorem stepTo_keeps_outInv {s t : State} (hs : OutInv s) (h : StepTo s t) : OutInv t := by
  cases h with
  | idle | start | discard | append | rejected | setDecl | setTime => exact hs
  | accepted b rest i t hin hsync hlen hdec hexec =>
    obtain ⟨a, ts, rfl⟩ := exec_next hexec
    intro l hl
    rcases List.mem_append.mp hl with hl | hl
    · exact hs l hl
    · exact generate_sentenceLine _ _ _ _ l hl
  | drain k => exact fun l hl => hs l (List.mem_of_mem_drop hl)
  | reset => exact fun l hl => by cases hl

/-- The clamp leaves no velocity beyond the limit (R95). -/
theorem clampVelocity_bounds (v : Rat) : -200 ≤ clampVelocity v ∧ clampVelocity v ≤ 200 := by
  rw [clampVelocity_eq]
  split
  · norm_num
  · next h => exact abs_le.mp (not_lt.mp h)

/-- The raw field reaches -32768 and not 32768, so the negated angle reaches 180 and not -180 (R91). -/
theorem neg_angleOf_exact_bounds (r : Half) : -180 < -angleOf .exact r ∧ -angleOf .exact r ≤ 180 := by
  have hlow : (-32768 : Rat) ≤ r.toInt := by exact_mod_cast BitVec.le_toInt r
  have hhigh : (r.toInt : Rat) < 32768 := by exact_mod_cast BitVec.toInt_lt (x := r)
  rw [angleOf_exact]
  constructor <;> linarith

/-- The three bounds read the velocity, the yaw, its sign bit and the domain alone. -/
theorem aggInv_congr {s t : State} (hvel : t.agg.gpsVel = s.agg.gpsVel) (hyaw : t.agg.yaw = s.agg.yaw)
    (hzero : t.agg.yawMinusZero = s.agg.yawMinusZero) (hparams : t.params = s.params) (h : AggInv s) :
    AggInv t := by
  unfold AggInv
  rwa [hvel, hyaw, hzero, hparams]

/-- GPSV clamps the velocity, ANGLE writes a yaw of its range, the other eight write neither (R91, R95). -/
theorem exec_keeps_aggInv {i : Instr} {s t : State} (hs : AggInv s) (h : exec i s = .next t) : AggInv t := by
  obtain ⟨hvel, hyaw, hzero⟩ := hs
  cases i with
  | time | acc | gyro | mag | baro | lonlat | quat | gpsacc => cases h; exact ⟨hvel, hyaw, hzero⟩
  | gpsv rgalt rgvel rghdg rv4 => cases h; exact ⟨clampVelocity_bounds _, hyaw, hzero⟩
  | angle rroll rpitch ryaw ra4 =>
    rw [exec_angle] at h
    cases h
    refine ⟨hvel, fun hexact => ?_, fun hminus => ?_⟩
    · simp only [acceptedWith_params] at hexact
      simp only [acceptedWith_agg, hexact]
      exact neg_angleOf_exact_bounds ryaw
    · obtain ⟨hbin, hnull⟩ := of_decide_eq_true hminus
      exact ⟨hbin, neg_eq_zero.mpr hnull⟩

theorem aggInv_of_agg_zero {s : State} (h : s.agg = .zero) : AggInv s := by
  unfold AggInv
  rw [h]
  exact ⟨⟨by decide +kernel, by decide +kernel⟩, fun _ => ⟨by decide +kernel, by decide +kernel⟩, nofun⟩

theorem stepTo_keeps_aggInv {s t : State} (hs : AggInv s) (h : StepTo s t) : AggInv t := by
  cases h with
  | idle | start | discard | append | rejected | setDecl | setTime | drain =>
    exact aggInv_congr rfl rfl rfl rfl hs
  | accepted b rest i t hin hsync hlen hdec hexec =>
    exact exec_keeps_aggInv (s := s.complete b rest) (aggInv_congr rfl rfl rfl rfl hs) hexec
  | reset => exact aggInv_of_agg_zero rfl

/-! ### The obligations -/

/-- Settles O24: each of the three parts is kept by every move. -/
theorem everyStepKeepsTheInvariant : Obligations.EveryStepKeepsTheInvariant := by
  rintro s t ⟨hsync, hout, hagg⟩ h
  have hmove := step_eq_next_iff.mp h
  exact ⟨stepTo_keeps_syncInv hsync hmove, stepTo_keeps_outInv hout hmove, stepTo_keeps_aggInv hagg hmove⟩

/-- Settles O25: nothing is held, nothing waits, and the aggregate is zero. -/
theorem resetMeetsTheInvariant : Obligations.ResetMeetsTheInvariant :=
  ⟨syncInv_of_unsynced rfl rfl, nofun, aggInv_of_agg_zero rfl⟩

/-- Settles O26, by the move. -/
theorem everyStepKeepsTheSynchronizerInvariant : Obligations.EveryStepKeepsTheSynchronizerInvariant :=
  fun _ _ hs h => stepTo_keeps_syncInv hs (step_eq_next_iff.mp h)

/-- Settles O27: only a rejected candidate gives an error, and the candidate of a synchronizer that keeps its
invariant is framed. -/
theorem framingErrorIsUnreachable : Obligations.FramingErrorIsUnreachable := by
  intro s t hs h
  cases step_eq_next_iff.mp h with
  | idle | start | discard | append | setDecl | setTime | drain | reset => nofun
  | rejected b rest e hin hsync hlen hdec =>
    rintro hverdict
    cases hverdict
    exact decodeFrame_ne_framingError b hs hsync hlen hdec
  | accepted b rest i t hin hsync hlen hdec hexec =>
    obtain ⟨a, ts, rfl⟩ := exec_next hexec
    nofun

/-- Settles O28, by the move there always is. -/
theorem onlyAnImpossibleDrainStops : Obligations.OnlyAnImpossibleDrainStops := by
  intro s
  rcases exists_stepTo_or_drain_beyond s with ⟨t, ht⟩ | ⟨k, rest, hin, hk⟩
  · exact .inl ⟨t, step_of_stepTo ht⟩
  · exact .inr ⟨k, rest, hin, hk, step_of_drain_beyond hin hk⟩

/-- Settles O29: each move, read field by field; an accepted frame writes the timestamp only as `exec_ts` says. -/
theorem eachElementHasItsWriters : Obligations.EachElementHasItsWriters := by
  intro s t h
  cases step_eq_next_iff.mp h with
  | idle hin => simp [hin]
  | start rest hin => simp [hin]
  | discard b rest hin => simp [hin]
  | append b rest hin => simp [hin]
  | setDecl d rest hin => simp [hin]
  | setTime x rest hin => simp [hin]
  | drain k rest hin => simp [hin]
  | reset rest hin => simp [hin]
  | rejected b rest e hin hsync hlen hdec => simp [hin, hsync, hlen, verdictOf_of_error hdec]
  | accepted b rest i t hin hsync hlen hdec hexec =>
    have hts := exec_ts hexec
    obtain ⟨a, ts, rfl⟩ := exec_next hexec
    have hwritten : ts = s.ts ∨ ts = some s.now ∧ ∃ f t0 t1 t2 t3,
        (s.complete b rest).candidate = some f ∧ decodeFrame f = .ok (.time t0 t1 t2 t3) := by
      refine hts.imp_right fun ⟨hnow, t0, t1, t2, t3, hi⟩ => ⟨hnow, _, t0, t1, t2, t3, rfl, ?_⟩
      rw [hdec, hi]
    simpa [hin, hsync, hlen, verdictOf_of_ok hdec] using hwritten

theorem drainedBy_of_drain {s : State} {k : Nat} {rest : List HostOp} (hin : s.input = .drain k :: rest) :
    drainedBy s = s.out.take k := by
  simp only [drainedBy, hin]

theorem drainedBy_of_not_drain {s : State} (h : ∀ k, s.input.head? ≠ some (.drain k)) : drainedBy s = [] := by
  unfold drainedBy
  split
  · next k rest hin => exact absurd (by rw [hin]; rfl) (h k)
  · rfl

/-- Settles O31: a drain cuts the lines in two, an accepted frame appends its generation, and no other move but RESET
touches them. -/
theorem linesAreOnlyAppendedAndDrained : Obligations.LinesAreOnlyAppendedAndDrained := by
  intro s t h hreset
  cases step_eq_next_iff.mp h with
  | idle hin | start rest hin | discard b rest hin | append b rest hin | setDecl d rest hin | setTime x rest hin
  | rejected b rest e hin =>
    simp [drainedBy_of_not_drain, hin]
  | drain k rest hin => simp [drainedBy_of_drain hin]
  | reset rest hin => exact absurd (by rw [hin]; rfl) hreset
  | accepted b rest i t hin hsync hlen hdec hexec =>
    obtain ⟨a, ts, rfl⟩ := exec_next hexec
    simp [drainedBy_of_not_drain, hin]

/-- Settles O32: the same move is there with another timestamp; an accepted frame answers alike by
`exec_of_ts_changed`. -/
theorem noRuleReadsTheTimestamp : Obligations.NoRuleReadsTheTimestamp := by
  intro s t x h
  have hmove : ∃ y, StepTo { s with ts := x } { t with ts := y } := by
    cases step_eq_next_iff.mp h with
    | idle hin => exact ⟨x, .idle hin⟩
    | start rest hin hsync => exact ⟨x, .start rest hin hsync⟩
    | discard b rest hin hsync hb => exact ⟨x, .discard b rest hin hsync hb⟩
    | append b rest hin hsync hlen => exact ⟨x, .append b rest hin hsync hlen⟩
    | rejected b rest e hin hsync hlen hdec => exact ⟨x, .rejected b rest e hin hsync hlen hdec⟩
    | accepted b rest i t hin hsync hlen hdec hexec =>
      obtain ⟨y, hy⟩ := exec_of_ts_changed x hexec
      exact ⟨y, .accepted b rest i _ hin hsync hlen hdec hy⟩
    | setDecl d rest hin => exact ⟨x, .setDecl d rest hin⟩
    | setTime d rest hin => exact ⟨x, .setTime d rest hin⟩
    | drain k rest hin hk => exact ⟨x, .drain k rest hin hk⟩
    | reset rest hin => exact ⟨none, .reset rest hin⟩
  obtain ⟨y, hy⟩ := hmove
  exact ⟨y, step_of_stepTo hy⟩

/-- Settles O14: the byte after ten completes the frame. -/
theorem stepRunsTheDecodedFrame : Obligations.StepRunsTheDecodedFrame :=
  fun _ _ _ _ hsync hlen hin hdec => step_of_deliver_accepted hin hsync hlen.ge hdec

/-- Settles O15: the placed state holds the frame's first ten bytes, and its next byte is the eleventh. -/
theorem placedTableWordIsRunNext : Obligations.PlacedTableWordIsRunNext := by
  intro s nbits w i h
  have hdec : decodeFrame (tableFrame nbits w) = .ok i := by
    unfold decodeTableWord at h
    split at h
    · next j hj => cases h; exact hj
    · cases h
  have hlen : (tableFrame nbits w).length = 11 := by simp [tableFrame]
  have hframe : (tableFrame nbits w).take 10 ++ [byteAt (tableFrame nbits w) 10] = tableFrame nbits w := by
    rw [byteAt_eq_getElem _ (by omega), List.take_append_getElem, List.take_of_length_le (by omega)]
  have hbuf : (s.withFetchWord nbits w).buf ++ [byteAt (tableFrame nbits w) 10] = tableFrame nbits w := hframe
  have htake : 10 ≤ (s.withFetchWord nbits w).buf.length := by
    rw [State.withFetchWord, State.awaitLast_buf, List.length_take]
    omega
  rw [step_of_deliver_accepted (s := s.withFetchWord nbits w) rfl rfl htake (hbuf.symm ▸ hdec), State.complete,
    hbuf]
  rfl

/-- Settles O20, by the idle move. -/
theorem idleStepHoldsTheState : Obligations.IdleStepHoldsTheState :=
  fun _ hin => step_of_stepTo (.idle hin)

/-- Settles O21, by the move. -/
theorem setDeclWritesTheDeclination : Obligations.SetDeclWritesTheDeclination :=
  fun _ d rest hin => step_of_stepTo (.setDecl d rest hin)

/-- Settles O22: the two moves, and the refusal where there is none. -/
theorem setTimeAndDrainDoWhatTheySay : Obligations.SetTimeAndDrainDoWhatTheySay := by
  refine ⟨fun s x rest hin => step_of_stepTo (.setTime x rest hin), fun s taken left rest hin hout => ?_,
    fun s k rest hin hk => step_of_drain_beyond hin hk⟩
  have hleft : left = s.out.drop taken.length := by rw [hout, List.drop_left]
  have hk : taken.length ≤ s.out.length := by rw [hout, List.length_append]; omega
  rw [hleft]
  exact step_of_stepTo (.drain taken.length rest hin hk)

/-- Settles O23, by the move. -/
theorem resetSetsEveryElement : Obligations.ResetSetsEveryElement :=
  ⟨⟨rfl, rfl, rfl, rfl, rfl, rfl⟩, fun _ rest hin => step_of_stepTo (.reset rest hin)⟩

/-- Settles O30: each frame type writes its own group only. -/
theorem framesLeaveOtherFieldsAlone : Obligations.FramesLeaveOtherFieldsAlone := by
  intro i s t h
  cases i <;> (cases h; simp)

end Sys2Proof.Machine
end

section
/-!
Streams of bytes: what the synchronizer makes of the bytes alone, that a run of deliveries observes exactly that, and
what it is for whole frames.
-/

namespace Sys2Proof.Machine

/-! ### The frames heard in a stream -/

/-- The (candidate, verdict) pairs the synchronizer makes of a stream of bytes, from its flag and the bytes it holds
(R76 to R78). -/
def heard : Bool → List Byte → List Byte → List (Frame × Verdict)
  | _, _, [] => []
  | false, held, b :: bs => if b = header then heard true [b] bs else heard false held bs
  | true, held, b :: bs =>
    if held.length ≤ 9 then heard true (held ++ [b]) bs
    else (held ++ [b], verdictOf (held ++ [b])) :: heard false [] bs

theorem heard_unsynced_header (held bs : List Byte) :
    heard false held (header :: bs) = heard true [header] bs := if_pos rfl

theorem heard_unsynced_other (held bs : List Byte) {b : Byte} (hb : b ≠ header) :
    heard false held (b :: bs) = heard false held bs := if_neg hb

theorem heard_synced_short {held : List Byte} (b : Byte) (bs : List Byte) (h : held.length ≤ 9) :
    heard true held (b :: bs) = heard true (held ++ [b]) bs := if_pos h

theorem heard_synced_full {held : List Byte} (b : Byte) (bs : List Byte) (h : 10 ≤ held.length) :
    heard true held (b :: bs) = (held ++ [b], verdictOf (held ++ [b])) :: heard false [] bs :=
  if_neg (by omega)

/-- The bytes still missing complete the frame, whatever they are (R81). -/
theorem heard_rest_of_frame (held bs later : List Byte) (hne : bs ≠ [])
    (hlen : held.length + bs.length = 11) :
    heard true held (bs ++ later) = (held ++ bs, verdictOf (held ++ bs)) :: heard false [] later := by
  induction bs generalizing held with
  | nil => exact absurd rfl hne
  | cons b bs ih =>
    rw [List.length_cons] at hlen
    rw [List.cons_append]
    cases bs with
    | nil => exact heard_synced_full b later (by simp at hlen; omega)
    | cons c cs =>
      rw [heard_synced_short b _ (by simp at hlen; omega), ih (held ++ [b]) (by simp) (by simp at hlen ⊢; omega),
        List.append_assoc, List.singleton_append]

theorem heard_frame {f : Frame} (held later : List Byte) (hlen : f.length = 11) (hhead : byteAt f 0 = header) :
    heard false held (f ++ later) = (f, verdictOf f) :: heard false [] later := by
  match f, hlen with
  | b :: bs, hlen =>
    have hb : b = header := hhead
    rw [List.length_cons] at hlen
    have hne : bs ≠ [] := List.ne_nil_of_length_pos (by omega)
    rw [hb, List.cons_append, heard_unsynced_header, heard_rest_of_frame [header] bs later hne (by simp; omega)]
    rfl

/-- A concatenation of whole frames is heard as these frames, in order (R82). -/
theorem heard_flatten (fs : List Frame) (held : List Byte)
    (h : ∀ f ∈ fs, f.lengthOk = true ∧ f.headerOk = true) :
    heard false held fs.flatten = fs.map fun f => (f, verdictOf f) := by
  induction fs generalizing held with
  | nil => rfl
  | cons f fs ih =>
    obtain ⟨hlen, hhead⟩ := h f (by simp)
    rw [List.flatten_cons, heard_frame held _ ((lengthOk_iff f).mp hlen) ((headerOk_iff f).mp hhead),
      ih [] fun g hg => h g (List.mem_cons_of_mem f hg), List.map_cons]

theorem flatten_length_of_framed (fs : List Frame) (h : ∀ f ∈ fs, f.lengthOk = true ∧ f.headerOk = true) :
    fs.flatten.length = 11 * fs.length := by
  induction fs with
  | nil => rfl
  | cons f fs ih =>
    have hlen := (lengthOk_iff f).mp (h f (by simp)).1
    rw [List.flatten_cons, List.length_append, hlen, ih fun g hg => h g (List.mem_cons_of_mem f hg),
      List.length_cons]
    omega

/-! ### A run of deliveries -/

/-- One delivered byte: the step is made, and its event and what the synchronizer then holds are those of `heard`. -/
theorem step_of_deliver_heard {s : State} {b : Byte} {rest : List HostOp} (hin : s.input = .deliver b :: rest) :
    ∃ t, step s = .next t ∧ t.input = rest ∧
      ∀ bs, heard s.sync s.buf (b :: bs) = eventOf t ++ heard t.sync t.buf bs := by
  cases hsync : s.sync with
  | false =>
    by_cases hb : b = header
    · subst hb
      exact ⟨_, step_of_stepTo (.start rest hin hsync), rfl, fun bs => heard_unsynced_header s.buf bs⟩
    · refine ⟨_, step_of_stepTo (.discard b rest hin hsync hb), rfl, fun bs => ?_⟩
      rw [heard_unsynced_other s.buf bs hb, State.advance_sync, hsync]
      rfl
  | true =>
    by_cases hlen : s.buf.length ≤ 9
    · refine ⟨_, step_of_stepTo (.append b rest hin hsync hlen), rfl, fun bs => ?_⟩
      rw [heard_synced_short b bs hlen, State.advance_sync, hsync]
      rfl
    · have hfull : 10 ≤ s.buf.length := by omega
      obtain ⟨t, hrun, hcand, hverdict, hsync', hbuf, hinput⟩ :=
        runCandidate_outputs (s.buf ++ [b]) { s.advance rest with buf := [], sync := false }
      refine ⟨t, (step_of_deliver_full s b rest hsync hfull hin).trans hrun, hinput, fun bs => ?_⟩
      rw [heard_synced_full b bs hfull, hsync', hbuf, eventOf, hcand, hverdict]
      rfl

theorem observe_succ {k : Nat} {s t : State} {o : Observation} (hstep : step s = .next t)
    (ho : observe k t = some o) : observe (k + 1) s =
      some { lines := drainedBy s ++ o.lines, events := eventOf t ++ o.events, agg := o.agg } := by
  rw [observe, hstep]
  simp only [ho, Option.map_some]

/-- Delivering bytes, every step is made, and the events are those heard in the bytes. -/
theorem observe_delivered (bs : List Byte) (s : State) (rest : List HostOp)
    (hin : s.input = bs.map HostOp.deliver ++ rest) :
    ∃ o, observe bs.length s = some o ∧ o.events = heard s.sync s.buf bs := by
  induction bs generalizing s with
  | nil => exact ⟨_, rfl, by cases s.sync <;> rfl⟩
  | cons b bs ih =>
    obtain ⟨t, hstep, hinput, hheard⟩ := step_of_deliver_heard (s := s) (b := b) hin
    obtain ⟨o, ho, hevents⟩ := ih t hinput
    exact ⟨_, observe_succ hstep ho, by rw [hheard bs, hevents]⟩

/-- Bytes short of a whole frame are taken in, one step each, and give no output (R77). -/
theorem run_short_of_frame (b : Byte) (bs : List Byte) (s : State) (rest : List HostOp) (hsync : s.sync = true)
    (hlen : s.buf.length + bs.length ≤ 9) (hin : s.input = (b :: bs).map HostOp.deliver ++ rest) :
    Host.Core.run core (b :: bs).length s =
      .next { s with buf := s.buf ++ b :: bs, input := rest, verdict := none, candidate := none } := by
  induction bs generalizing b s with
  | nil => exact run_of_step (M := core) 0 s _ (step_of_stepTo (.append b rest hin hsync hlen))
  | cons c cs ih =>
    rw [List.length_cons] at hlen
    have hstep := step_of_stepTo (.append b ((c :: cs).map HostOp.deliver ++ rest) hin hsync (by omega))
    have hrun := ih c { s.advance _ with buf := s.buf ++ [b] } hsync
      (by simp only [List.length_append, List.length_singleton]; omega) rfl
    rw [List.append_assoc, List.singleton_append] at hrun
    exact (run_of_step (M := core) (c :: cs).length s _ hstep).trans hrun

/-- The byte that brings the buffer to eleven completes the frame, and no earlier one does (R78, R81). -/
theorem run_rest_of_frame (bs : List Byte) (s : State) (rest : List HostOp) (hsync : s.sync = true)
    (hne : bs ≠ []) (hlen : s.buf.length + bs.length = 11) (hin : s.input = bs.map HostOp.deliver ++ rest) :
    ∃ t, Host.Core.run core bs.length s = .next t ∧ t.sync = false ∧ t.buf = [] ∧ t.input = rest ∧
      t.candidate = some (s.buf ++ bs) := by
  induction bs generalizing s with
  | nil => exact absurd rfl hne
  | cons b bs ih =>
    rw [List.length_cons] at hlen
    cases bs with
    | nil =>
      obtain ⟨t, hstep, hcand, hbuf, hsync', hinput, -⟩ :=
        eleventhByteGivesTheCandidate s b rest hsync (by simpa using hlen) hin
      exact ⟨t, run_of_step (M := core) 0 s t hstep, hsync', hbuf, hinput, hcand⟩
    | cons c cs =>
      rw [List.length_cons] at hlen
      have hstep := step_of_stepTo (.append b ((c :: cs).map HostOp.deliver ++ rest) hin hsync (by omega))
      obtain ⟨t, hrun, hsync', hbuf, hinput, hcand⟩ := ih { s.advance _ with buf := s.buf ++ [b] } hsync (by simp)
        (by simp only [List.length_append, List.length_cons, List.length_nil]; omega) rfl
      rw [List.append_assoc, List.singleton_append] at hcand
      exact ⟨t, (run_of_step (M := core) (c :: cs).length s _ hstep).trans hrun, hsync', hbuf, hinput, hcand⟩

/-! ### The obligations -/

/-- Settles O18: the events are those heard in the bytes, and in a concatenation of frames these are the frames. -/
theorem uncorruptedStreamGivesItsFrames : Obligations.UncorruptedStreamGivesItsFrames := by
  intro fs s rest hfs hsync hin
  obtain ⟨o, ho, hevents⟩ := observe_delivered fs.flatten s rest hin
  rw [flatten_length_of_framed fs hfs] at ho
  exact ⟨o, ho, by rw [hevents, hsync, heard_flatten fs s.buf hfs]⟩

theorem deliveries_split_at (bs : List Byte) (rest : List HostOp) (k : Nat) :
    bs.map HostOp.deliver ++ rest =
      (bs.take k).map HostOp.deliver ++ ((bs.drop k).map HostOp.deliver ++ rest) := by
  rw [← List.append_assoc, ← List.map_append, List.take_append_drop]

/-- Settles O19: over the first k bytes, for every k, the events of both runs are those heard in its bytes. -/
theorem candidatesDependOnTheBytesAlone : Obligations.CandidatesDependOnTheBytesAlone := by
  intro k bs s u hk hsync hbuf hs hu
  have hlen : (bs.take k).length = k := List.length_take_of_le hk
  rw [← List.append_nil (bs.map _), deliveries_split_at bs [] k] at hs hu
  obtain ⟨o, ho, hevents⟩ := observe_delivered (bs.take k) s _ hs
  obtain ⟨p, hp, hevents'⟩ := observe_delivered (bs.take k) u _ hu
  rw [hlen] at ho hp
  exact ⟨o, p, ho, hp, by rw [hevents, hevents', hsync, hbuf]⟩

/-- Settles O17: every byte but the last is taken in, and the last completes the frame. -/
theorem lockedFrameTakesExactlyElevenBytes : Obligations.LockedFrameTakesExactlyElevenBytes := by
  intro s bs rest hs hsync hlen hin
  obtain ⟨hpos, hmax, -⟩ := hs.2 hsync
  constructor
  · intro m h1 hm
    have htake : (bs.take m).length = m := List.length_take_of_le hm.le
    obtain ⟨b, cs, hbs⟩ := List.exists_cons_of_length_pos (by omega : 0 < (bs.take m).length)
    rw [deliveries_split_at bs rest m, hbs] at hin
    rw [hbs, List.length_cons] at htake
    have hrun := run_short_of_frame b cs s _ hsync (by omega) hin
    rw [List.length_cons, htake, ← hbs] at hrun
    exact ⟨_, hrun, hsync, rfl, rfl, rfl⟩
  · exact run_rest_of_frame bs s rest hsync (List.ne_nil_of_length_pos (by omega)) hlen hin

end Sys2Proof.Machine
end

section
/-!
Numbers: the binary64 rounding is to nearest, ties to even, and the conversions and derived quantities that round.
-/

namespace Sys2Proof.Machine

/-! ### Rounding to an integer -/

/-- No integer lies nearer to a number than the one it is rounded to. -/
theorem abs_sub_roundHalfEven_le (x : Rat) (j : Int) : |x - roundHalfEven x| ≤ |x - j| := by
  have hnear := (roundHalfEven_spec x).1
  rcases eq_or_ne j (roundHalfEven x) with rfl | hne
  · exact le_refl _
  · have hone : (1 : Rat) ≤ |(roundHalfEven x : Rat) - j| := by
      rw [← Int.cast_sub]
      exact_mod_cast Int.one_le_abs (sub_ne_zero.mpr hne.symm)
    have htri : |(roundHalfEven x : Rat) - j| ≤ |(roundHalfEven x : Rat) - x| + |x - j| := abs_sub_le _ _ _
    rw [abs_sub_comm (roundHalfEven x : Rat) x] at htri
    linarith

/-- Rounding does not cross an integer. -/
theorem roundHalfEven_le_of_lt {x : Rat} {n : Int} (h : x < n) : roundHalfEven x ≤ n := by
  have hnear := (abs_le.mp (roundHalfEven_spec x).1).1
  have hlt : (roundHalfEven x : Rat) < (n + 1 : Int) := by push_cast; linarith
  exact Int.lt_add_one_iff.mp (by exact_mod_cast hlt)

/-! ### The exponent of the last significand bit -/

/-- Scaled by the weight of its last bit a number has at most 53 bits before the point. -/
theorem lt_pow_mul_ulp {a : Rat} (ha : 0 < a) : a < 2 ^ 53 * pow2 (ulpExponent a) := by
  have hexp : binExponent a + 1 ≤ 53 + ulpExponent a := by
    have hmax : binExponent a - 52 ≤ ulpExponent a := le_max_left _ _
    omega
  have hpow : (2 : Rat) ^ 53 * pow2 (ulpExponent a) = pow2 (53 + ulpExponent a) := by
    rw [pow2_eq, pow2_eq, zpow_add₀ two_ne_zero]
    rfl
  calc a < pow2 (binExponent a + 1) := (binExponent_spec a ha).2
    _ ≤ pow2 (53 + ulpExponent a) := by
      rw [pow2_eq, pow2_eq]
      exact zpow_le_zpow_right₀ one_le_two hexp
    _ = 2 ^ 53 * pow2 (ulpExponent a) := hpow.symm

/-- Above the subnormals the leading bit of a number is 52 places before its last. -/
theorem pow_mul_ulp_le {a : Rat} (ha : 0 < a) (h : -1074 < ulpExponent a) :
    2 ^ 52 * pow2 (ulpExponent a) ≤ a := by
  have hexp : ulpExponent a = binExponent a - 52 := by
    rw [ulpExponent] at h ⊢
    omega
  have hpow : (2 : Rat) ^ 52 * pow2 (ulpExponent a) = pow2 (binExponent a) := by
    rw [hexp, pow2_eq, pow2_eq, ← zpow_natCast, ← zpow_add₀ two_ne_zero]
    congr 1
    norm_num
  rw [hpow]
  exact (binExponent_spec a ha).1

theorem ulpExponent_le_of_lt {a : Rat} (ha : 0 < a) (h : a < pow2 1024) : ulpExponent a ≤ 971 := by
  have hlt : (2 : Rat) ^ binExponent a < 2 ^ (1024 : Int) := by
    rw [← pow2_eq, ← pow2_eq]
    exact (binExponent_spec a ha).1.trans_lt h
  have hexp : binExponent a < 1024 := (zpow_lt_zpow_iff_right₀ one_lt_two).mp hlt
  rw [ulpExponent]
  omega

/-! ### Rounding a positive number -/

/-- The integer significand the rounding gives to the magnitude of `x`. -/
def significand (x : Rat) : Int := roundHalfEven (|x| / pow2 (ulpExponent |x|))

theorem roundedMagnitude_eq (x : Rat) : roundedMagnitude x = significand x * pow2 (ulpExponent |x|) := rfl

theorem significand_nonneg (x : Rat) : 0 ≤ significand x :=
  roundHalfEven_nonneg _ (div_nonneg (abs_nonneg x) (pow2_pos _).le)

theorem significand_le {x : Rat} (hx : x ≠ 0) : significand x ≤ 2 ^ 53 := by
  apply roundHalfEven_le_of_lt
  rw [div_lt_iff₀ (pow2_pos _)]
  exact_mod_cast lt_pow_mul_ulp (abs_pos.mpr hx)

/-- The distance to the rounded magnitude, in units of the last bit. -/
theorem abs_sub_mul_ulp (x : Rat) (j : Int) : |(|x| - j * pow2 (ulpExponent |x|))| =
    |(|x| / pow2 (ulpExponent |x|) - j)| * pow2 (ulpExponent |x|) := by
  have hpos := pow2_pos (ulpExponent |x|)
  rw [← abs_of_pos hpos, ← abs_mul, abs_of_pos hpos, sub_mul, div_mul_cancel₀ _ hpos.ne']

theorem roundedMagnitude_spec (x : Rat) :
    |(|x| - roundedMagnitude x)| ≤ pow2 (ulpExponent |x|) / 2 ∧
      (|(|x| - roundedMagnitude x)| = pow2 (ulpExponent |x|) / 2 → significand x % 2 = 0) := by
  obtain ⟨hnear, htie⟩ := roundHalfEven_spec (|x| / pow2 (ulpExponent |x|))
  have hpos := pow2_pos (ulpExponent |x|)
  have hhalf : pow2 (ulpExponent |x|) / 2 = 1 / 2 * pow2 (ulpExponent |x|) := by ring
  rw [roundedMagnitude_eq, abs_sub_mul_ulp, hhalf]
  exact ⟨mul_le_mul_of_nonneg_right hnear hpos.le, fun h => htie (mul_right_cancel₀ hpos.ne' h)⟩

theorem abs_sub_roundedMagnitude_le_of_multiple (x : Rat) (j : Int) :
    |(|x| - roundedMagnitude x)| ≤ |(|x| - j * pow2 (ulpExponent |x|))| := by
  rw [roundedMagnitude_eq, abs_sub_mul_ulp, abs_sub_mul_ulp]
  exact mul_le_mul_of_nonneg_right (abs_sub_roundHalfEven_le _ j) (pow2_pos _).le

/-- No binary64 number lies nearer: one with a last bit of at least the same weight is a multiple of that weight, and
one with a smaller weight lies below the leading bit of the number. -/
theorem abs_sub_roundedMagnitude_le {x : Rat} (hx : x ≠ 0) {m e : Int} (hm : m ≤ 2 ^ 53) (he : -1074 ≤ e) :
    |(|x| - roundedMagnitude x)| ≤ |(|x| - m * pow2 e)| := by
  rcases le_or_gt (ulpExponent |x|) e with hle | hlt
  · obtain ⟨n, rfl⟩ := Int.le.dest hle
    have hmul : (m : Rat) * pow2 (ulpExponent |x| + n) = (m * 2 ^ n : Int) * pow2 (ulpExponent |x|) := by
      rw [pow2_eq, pow2_eq, zpow_add₀ two_ne_zero, zpow_natCast]
      push_cast
      ring
    rw [hmul]
    exact abs_sub_roundedMagnitude_le_of_multiple x _
  · have hlead := pow_mul_ulp_le (abs_pos.mpr hx) (by omega)
    have hhalf : 2 * pow2 e ≤ pow2 (ulpExponent |x|) := by
      rw [pow2_eq, pow2_eq, ← zpow_one_add₀ two_ne_zero]
      exact zpow_le_zpow_right₀ one_le_two (by omega)
    have hbelow : (m : Rat) * pow2 e ≤ 2 ^ 52 * pow2 (ulpExponent |x|) := by
      have hm' : (m : Rat) ≤ 2 ^ 53 := by exact_mod_cast hm
      calc (m : Rat) * pow2 e ≤ 2 ^ 53 * pow2 e := mul_le_mul_of_nonneg_right hm' (pow2_pos e).le
        _ = 2 ^ 52 * (2 * pow2 e) := by ring
        _ ≤ 2 ^ 52 * pow2 (ulpExponent |x|) := by gcongr
    calc |(|x| - roundedMagnitude x)|
        ≤ |(|x| - (2 ^ 52 : Int) * pow2 (ulpExponent |x|))| := abs_sub_roundedMagnitude_le_of_multiple x _
      _ = |x| - 2 ^ 52 * pow2 (ulpExponent |x|) := by
        push_cast
        exact abs_of_nonneg (sub_nonneg.mpr hlead)
      _ ≤ |x| - m * pow2 e := by linarith
      _ ≤ |(|x| - m * pow2 e)| := le_abs_self _

/-! ### The sign and the overflow bound -/

/-- The sign of `x` as a factor. -/
def signFactor (x : Rat) : Int := if x < 0 then -1 else 1

theorem signFactor_mul_abs (x : Rat) : signFactor x * |x| = x := by
  unfold signFactor
  split
  · next h => rw [abs_of_neg h]; simp
  · next h => rw [abs_of_nonneg (not_lt.mp h)]; simp

theorem abs_signFactor (x : Rat) : |signFactor x| = 1 := by
  unfold signFactor
  split <;> rfl

/-- Below the bound half a last bit more does not reach 2^1024. -/
theorem roundedMagnitude_lt {x : Rat} (hx : x ≠ 0) (h : |x| < 2 ^ 1024 - 2 ^ 970) :
    roundedMagnitude x < pow2 1024 := by
  have hbound : pow2 1024 = 2 ^ 1024 := (pow2_eq 1024).trans (zpow_natCast 2 1024)
  have hpos : (0 : Rat) < 2 ^ 970 := by positivity
  have hulp : ulpExponent |x| ≤ 971 :=
    ulpExponent_le_of_lt (abs_pos.mpr hx) (hbound ▸ h.trans (sub_lt_self _ hpos))
  have hhalf : pow2 (ulpExponent |x|) / 2 ≤ 2 ^ 970 := by
    have htwo : (2 : Rat) * 2 ^ 970 = 2 ^ (971 : Int) := by rw [← pow_succ']; rfl
    rw [div_le_iff₀ two_pos, mul_comm, htwo, pow2_eq]
    exact zpow_le_zpow_right₀ one_le_two hulp
  have hnear := (abs_le.mp (roundedMagnitude_spec x).1).1
  calc roundedMagnitude x ≤ |x| + pow2 (ulpExponent |x|) / 2 := by linarith only [hnear]
    _ ≤ |x| + 2 ^ 970 := by gcongr
    _ < 2 ^ 1024 := lt_sub_iff_add_lt.mp h
    _ = pow2 1024 := hbound.symm

theorem roundBinary64_eq_signed {x : Rat} (hx : x ≠ 0) (h : |x| < 2 ^ 1024 - 2 ^ 970) :
    roundBinary64 x = signFactor x * roundedMagnitude x := by
  rw [roundBinary64_eq_of_not_overflow hx (roundedMagnitude_lt hx h), signFactor]
  split <;> simp

/-- The rounding error is that of the magnitude. -/
theorem abs_sub_roundBinary64 {x : Rat} (hx : x ≠ 0) (h : |x| < 2 ^ 1024 - 2 ^ 970) :
    |x - roundBinary64 x| = |(|x| - roundedMagnitude x)| := by
  have hsign : |(signFactor x : Rat)| = 1 := by exact_mod_cast abs_signFactor x
  calc |x - roundBinary64 x| = |signFactor x * |x| - signFactor x * roundedMagnitude x| := by
        rw [signFactor_mul_abs, roundBinary64_eq_signed hx h]
    _ = |(|x| - roundedMagnitude x)| := by rw [← mul_sub, abs_mul, hsign, one_mul]

/-- Settles O44: a nonzero number rounds to its sign times its significand in units of its last bit, and zero to
itself. -/
theorem binaryRoundingIsToNearestEven : Obligations.BinaryRoundingIsToNearestEven := by
  intro x hbound
  rcases eq_or_ne x 0 with rfl | hx
  · rw [roundBinary64_zero, sub_zero, abs_zero]
    exact ⟨⟨0, 0, by norm_num, by norm_num, by norm_num, by norm_num, by norm_num⟩, fun k e _ _ => abs_nonneg _⟩
  · rw [abs_sub_roundBinary64 hx hbound]
    obtain ⟨hnear, htie⟩ := roundedMagnitude_spec x
    rw [pow2_eq] at hnear htie
    refine ⟨⟨signFactor x * significand x, ulpExponent |x|, ?_, le_max_right _ _, ?_, hnear, fun h => ?_⟩,
      fun k e hk he => ?_⟩
    · rw [abs_mul, abs_signFactor, one_mul, abs_of_nonneg (significand_nonneg x)]
      exact significand_le hx
    · rw [roundBinary64_eq_signed hx hbound, roundedMagnitude_eq, pow2_eq, Int.cast_mul, mul_assoc]
    · rw [Int.mul_emod, htie h, mul_zero, Int.zero_emod]
    · have hmag := abs_sub_roundedMagnitude_le hx hk he
      have habs : |(k : Rat) * 2 ^ e| = (|k| : Int) * pow2 e := by
        rw [← pow2_eq, abs_mul, abs_of_pos (pow2_pos e), Int.cast_abs]
      rw [← habs] at hmag
      exact hmag.trans (abs_abs_sub_abs_le_abs_sub _ _)

/-! ### Conversions and derived quantities -/

theorem accelOf_exact (r : Half) : accelOf .exact r = r.toInt * (49 / 10240) := by
  simp only [accelOf, s16, gravity, mulN_exact, divN_exact, litN_exact]
  ring

theorem accelOf_binary64 (r : Half) : accelOf .binary64 r =
    roundBinary64 (roundBinary64 (roundBinary64 (r.toInt / 32768) * 16) * roundBinary64 (49 / 5)) := rfl

/-- R94's packed degrees and minutes; the sign of 0 takes nothing away, since 0 reads as 0. -/
theorem geo_ddm_exact {p : Params} (hmode : p.latLon = .ddm) (hnum : p.numeric = .exact) (r : Int) :
    geo p r = ddmDegrees r := by
  have hten : (10 : Rat) ^ 7 = 10000000 := by norm_num
  simp only [geo, hmode, hnum, divN_exact, mulN_exact, subN_exact, addN_exact, ddmDegrees, qabs_eq_abs, hten]
  rcases lt_trichotomy r 0 with hneg | rfl | hpos
  · rw [if_pos hneg, Int.sign_eq_neg_one_of_neg hneg, Int.cast_neg, Int.cast_one, neg_one_mul]
    rfl
  · have hfloor : Rat.floor 0 = 0 := rfl
    simp [hfloor]
  · rw [if_neg hpos.not_gt, Int.sign_eq_one_of_pos hpos, Int.cast_one, one_mul]
    rfl

theorem geo_ddm_binary64 {p : Params} (hmode : p.latLon = .ddm) (hnum : p.numeric = .binary64) (r : Int) :
    geo p r = ddmBinary64 r := by
  have hten : (10 : Rat) ^ 7 = 10000000 := by norm_num
  simp only [geo, hmode, hnum, divN, mulN, subN, addN, rounded_binary64, ddmBinary64, qabs_eq_abs, hten]
  rfl

theorem geo_degE7 {p : Params} (hmode : p.latLon = .degE7) (r : Int) :
    geo p r = rounded p.numeric (r / 10 ^ 7) := by
  have hten : (10 : Rat) ^ 7 = 10000000 := by norm_num
  simp only [geo, hmode, divN, hten]

/-- Settles O35, by the conversion in each domain. -/
theorem accWritesAccelerationAndTemperature : Obligations.AccWritesAccelerationAndTemperature := by
  intro rax ray raz rtemp s
  constructor
  · intro hm
    simp only [exec_acc, hm, accelOf_exact, hundredths_exact]
  · intro hm
    simp only [exec_acc, hm, accelOf_binary64, hundredths_binary64]

/-- Settles O40, by the reading of a field in each mode and domain. -/
theorem lonlatWritesPosition : Obligations.LonlatWritesPosition := by
  intro rlon rlat s
  refine ⟨fun hmode hm => ?_, fun hmode hm => ?_, fun hmode hm => ?_, fun hmode hm => ?_⟩
  · simp only [exec_lonlat, geo_ddm_exact hmode hm]
  · simp only [exec_lonlat, geo_ddm_binary64 hmode hm]
  · simp only [exec_lonlat, geo_degE7 hmode, hm, rounded_exact]
  · simp only [exec_lonlat, geo_degE7 hmode, hm, rounded_binary64]

/-- Settles O53: each quantity is one rounded operation, and the modulo takes off whole multiples of 360. -/
theorem binaryDerivedQuantitiesRoundEachOperation :
    Obligations.BinaryDerivedQuantitiesRoundEachOperation :=
  fun a d => ⟨rfl, rfl, rfl, ⟨(addN .binary64 (magHeading .binary64 a) d / 360).floor, rfl⟩, rfl⟩

theorem magHeading_exact (a : Agg) : magHeading .exact a = if a.yaw < 0 then a.yaw + 360 else a.yaw := rfl

/-- Settles O54: a negative yaw of the range moves up by a whole turn, any other is in place. -/
theorem magneticHeadingIsWrapped : Obligations.MagneticHeadingIsWrapped := by
  refine fun a => ⟨magHeading_exact a, fun hlow hhigh => ?_⟩
  rw [magHeading_exact]
  split
  · next hneg => exact ⟨by linarith, by linarith⟩
  · next hpos => exact ⟨not_lt.mp hpos, by linarith⟩

end Sys2Proof.Machine
end

section
/-!
The generator's text: the line checksum, the fields of each sentence, the position field, the satellite placeholders, and
how many lines a generation has.
-/

namespace Sys2Proof.Machine

/-! ### The checksum of a line -/

theorem hexDigits_getElem?_eq_hexDigit {n : Nat} (h : n < 16) : hexDigits[n]? = some (hexDigit n) := by
  have hall : ∀ m : Fin 16, hexDigits[m.val]? = some (hexDigit m.val) := by decide
  exact hall ⟨n, h⟩

/-- `hex2` writes the digits of the table for the high and the low nibble (R13). -/
theorem hex2_digits (b : Byte) : ∃ hi lo : Byte, hexDigits[b.toNat / 16]? = some hi ∧
    hexDigits[b.toNat % 16]? = some lo ∧ hex2 b = [hi, lo] := by
  have hlt := b.isLt
  exact ⟨_, _, hexDigits_getElem?_eq_hexDigit (by omega), hexDigits_getElem?_eq_hexDigit (by omega), rfl⟩

/-- Exclusive-or of codes below 2^k stays below 2^k. -/
theorem foldl_xor_lt (k : Nat) (t : Text) (acc : Byte) (hacc : acc.toNat < 2 ^ k)
    (h : ∀ c ∈ t, c.toNat < 2 ^ k) : (t.foldl (· ^^^ ·) acc).toNat < 2 ^ k := by
  induction t generalizing acc with
  | nil => exact hacc
  | cons c t ih =>
    apply ih
    · rw [BitVec.toNat_xor]
      exact Nat.xor_lt_two_pow hacc (h c (by simp))
    · exact fun d hd => h d (List.mem_cons_of_mem c hd)

theorem nmeaCs_le_of_bodyOk {body : Text} (h : BodyOk body) : (nmeaCs body).toNat ≤ 0x7F := by
  have hlt := foldl_xor_lt 7 body 0#8 (by decide) fun c hc => by
    obtain ⟨-, hmax, -⟩ := h c hc
    omega
  rw [nmeaCs]
  omega

/-- Bit j of a running exclusive-or is the parity of the bits j met. -/
theorem foldl_xor_getLsbD (t : Text) (acc : Byte) (j : Nat) :
    (t.foldl (· ^^^ ·) acc).getLsbD j =
      (acc.getLsbD j ^^ decide (t.countP (fun c => c.getLsbD j) % 2 = 1)) := by
  induction t generalizing acc with
  | nil => simp
  | cons c t ih =>
    rw [List.foldl_cons, ih, BitVec.getLsbD_xor, List.countP_cons]
    have hparity : ∀ n : Nat, decide ((n + 1) % 2 = 1) = !decide (n % 2 = 1) := by
      intro n
      rw [← decide_not, decide_eq_decide]
      omega
    cases c.getLsbD j with
    | false => simp
    | true => simp [hparity]

/-- No body character is the "*", so the body ends at the first one (R112, R114). -/
theorem bodyOfLine_sentenceLine {body : Text} (h : BodyOk body) : bodyOfLine (sentenceLine body) = body := by
  have hstar : ∀ c ∈ body, decide (c ≠ 0x2A#8) = true := fun c hc => by
    obtain ⟨-, -, -, hne⟩ := h c hc
    exact decide_eq_true hne
  rw [bodyOfLine, sentenceLine, List.drop_one, List.tail_cons, List.append_assoc,
    List.takeWhile_append_of_pos hstar]
  simp

/-! ### The fields of the sentences -/

/-- May every character of a constant stand in a field (R112)? -/
def plain (s : String) : Bool :=
  s.toList.all fun c => decide (0x20 ≤ c.toNat ∧ c.toNat ≤ 0x7E ∧ c.toNat ≠ 0x24 ∧ c.toNat ≠ 0x2A ∧ c.toNat ≠ 0x2C)

theorem fieldOk_ascii {s : String} (h : plain s = true) : FieldOk (ascii s) :=
  ascii_fieldChar s h

theorem fixValid_eq (a : Agg) : fixValid a = true ↔ ¬a.sats = 0 := by
  simp [fixValid]

theorem gpsOn_eq (a : Agg) : gpsOn a = !decide (a.lat = 0 ∧ a.lon = 0) := by
  rw [gpsOn, Bool.decide_and]

/-- Below twelve the placeholder's index is compared with the satellite count itself (R130). -/
theorem prnFields_eq (n : Int) :
    prnFields n = (List.range 12).map fun i : Nat => if (i : Int) < n then zpad (i + 1) 2 else [] := by
  apply List.map_congr_left
  intro i hi
  rw [List.mem_range] at hi
  have hiff : (i : Int) < max 0 (min n maxPrn) ↔ (i : Int) < n := by
    rw [maxPrn]
    omega
  exact if_congr hiff rfl rfl

theorem timeField_eq (t : HostTime) : timeField t =
    zpad t.hh.val 2 ++ zpad t.mi.val 2 ++ zpad t.ss.val 2 ++ 0x2E#8 :: zpad t.cs.val 2 := by
  rw [timeField, List.append_assoc (_ ++ _)]
  rfl

theorem latHemi_eq (a : Agg) : latHemi a = if a.lat < 0 then ascii "S" else ascii "N" := by
  rw [latHemi, ← ite_not]
  simp only [not_le]

theorem lonHemi_eq (a : Agg) : lonHemi a = if a.lon < 0 then ascii "W" else ascii "E" := by
  rw [lonHemi, ← ite_not]
  simp only [not_le]

theorem trueHeading_exact (a : Agg) (d : Rat) : trueHeading .exact a d =
    magHeading .exact a + d - 360 * ⌊(magHeading .exact a + d) / 360⌋ := rfl

theorem knots_exact (a : Agg) : knots .exact a = a.gpsVel * (194384 / 100000) := rfl

theorem kmh_exact (a : Agg) : kmh .exact a = a.gpsVel * (18 / 5) := rfl

theorem rateOfTurn_exact (a : Agg) : rateOfTurn .exact a = a.wz * 60 := rfl

/-- A sentence of one number and one letter, split. -/
theorem valueBody_splitOn {ident letter : String} (x : Rat) (k : Nat) (hi : plain ident = true)
    (hl : plain letter = true) :
    (sentenceBody ident [fix x k, ascii letter]).splitOn 0x2C#8 = [ascii ident, fix x k, ascii letter] :=
  sentenceBody_splitOn _ _ (fieldOk_ascii hi)
    (fieldsOk_cons _ _ (fieldOk_fix _ _) (fieldsOk_cons _ _ (fieldOk_ascii hl) fieldsOk_nil))

theorem bodyXDR_splitOn {kind unit tag : String} (x : Rat) (k : Nat) (hk : plain kind = true)
    (hu : plain unit = true) (ht : plain tag = true) :
    (bodyXDR kind (fix x k) unit tag).splitOn 0x2C#8 =
      [ascii "IIXDR", ascii kind, fix x k, ascii unit, ascii tag] :=
  sentenceBody_splitOn _ _ (fieldOk_ascii (by decide))
    (fieldsOk_cons _ _ (fieldOk_ascii hk) (fieldsOk_cons _ _ (fieldOk_fix _ _) (fieldsOk_cons _ _ (fieldOk_ascii hu)
      (fieldsOk_cons _ _ (fieldOk_ascii ht) fieldsOk_nil))))

section
variable (p : Params) (a : Agg) (d : Rat) (now : HostTime)

theorem fieldOk_latHemi : FieldOk (latHemi a) :=
  fieldOk_choice _ _ _ (fieldOk_ascii (by decide)) (fieldOk_ascii (by decide))

theorem fieldOk_lonHemi : FieldOk (lonHemi a) :=
  fieldOk_choice _ _ _ (fieldOk_ascii (by decide)) (fieldOk_ascii (by decide))

theorem bodyGGA_splitOn : (bodyGGA p a now).splitOn 0x2C#8 =
    [ascii "GPGGA", timeField now, latField p a, latHemi a, lonField p a, lonHemi a,
      if fixValid a then ascii "1" else ascii "0", zpad a.sats 2, fix a.hdop p.decimals.dop,
      fix a.gpsAlt p.decimals.gpsAlt, ascii "M", [], ascii "M", [], []] := by
  apply sentenceBody_splitOn _ _ (fieldOk_ascii (by decide))
  simp (disch := decide) [latField, lonField, apply_ite FieldOk, fieldOk_latHemi, fieldOk_lonHemi, fieldOk_ascii]

theorem bodyRMC_splitOn : (bodyRMC p a d now).splitOn 0x2C#8 =
    [ascii "GPRMC", timeField now, if fixValid a then ascii "A" else ascii "V", latField p a, latHemi a,
      lonField p a, lonHemi a, fix (knots p.numeric a) p.decimals.speed, fix a.gpsHdg p.decimals.track,
      dateField now, fix (qabs d) p.decimals.variation, if d < 0 then ascii "W" else ascii "E"] := by
  apply sentenceBody_splitOn _ _ (fieldOk_ascii (by decide))
  simp (disch := decide) [latField, lonField, apply_ite FieldOk, fieldOk_latHemi, fieldOk_lonHemi, fieldOk_ascii]

theorem bodyVTG_splitOn : (bodyVTG p a).splitOn 0x2C#8 =
    [ascii "GPVTG", fix a.gpsHdg p.decimals.track, ascii "T", fix a.gpsHdg p.decimals.track, ascii "M",
      fix (knots p.numeric a) p.decimals.speed, ascii "N", fix (kmh p.numeric a) p.decimals.speed,
      ascii "K"] := by
  apply sentenceBody_splitOn _ _ (fieldOk_ascii (by decide))
  simp (disch := decide) [fieldOk_ascii]

theorem bodyGSA_splitOn : (bodyGSA p a).splitOn 0x2C#8 =
    ascii "GPGSA" :: ([ascii "A", if fixValid a then ascii "3" else ascii "1"] ++ prnFields a.sats ++
      [fix a.pdop p.decimals.dop, fix a.hdop p.decimals.dop, fix a.vdop p.decimals.dop]) := by
  apply sentenceBody_splitOn _ _ (fieldOk_ascii (by decide))
  rw [List.forall_mem_append, List.forall_mem_append]
  refine ⟨⟨?_, fieldOk_prnFields a.sats⟩, ?_⟩
  · simp (disch := decide) [apply_ite FieldOk, fieldOk_ascii]
  · simp

end

/-! ### The position field -/

theorem digitsOnto_length_le (fuel n k : Nat) (h : n < 10 ^ k) (hk : 0 < k) :
    (digitsOnto fuel n []).length ≤ k := by
  induction fuel generalizing n k with
  | zero => exact Nat.zero_le k
  | succ fuel ih =>
    simp only [digitsOnto]
    split
    · exact hk
    · next hge =>
      have hk1 : 0 < k - 1 := by
        by_contra hnot
        have hone : k = 1 := by omega
        rw [hone] at h
        omega
      have hpow : 10 ^ k = 10 ^ (k - 1) * 10 := by rw [← pow_succ, Nat.sub_add_cancel hk]
      have hlen := ih (n / 10) (k - 1) (by omega) hk1
      rw [digitsOnto_append, List.length_append, List.length_singleton]
      omega

theorem str_length_le {n k : Nat} (h : n < 10 ^ k) (hk : 0 < k) : (str n).length ≤ k :=
  digitsOnto_length_le _ n k h hk

/-- Padding in front of a text whose tail is left out. -/
theorem padZero_append (w : Nat) (s t : Text) : padZero (w + t.length) (s ++ t) = padZero w s ++ t := by
  rw [padZero, padZero, List.length_append, Nat.add_sub_add_right, List.append_assoc]

theorem signOf_of_nonneg {x : Rat} (h : 0 ≤ x) : signOf (x < 0) = [] := if_neg (not_lt.mpr h)

theorem zpad_natCast (n w : Nat) : zpad n w = padZero w (str n) := by
  have hneg : ¬ (n : Int) < 0 := by omega
  simp [zpad, signOf, hneg]

/-- A number that has two whole digits at most is padded to two (R117, R119). -/
theorem fixw_minutes {x : Rat} (hx : 0 ≤ x) (k : Nat) :
    fixw x k (minutesWidth k) = padZero 2 (fixWhole x k) ++ (if k = 0 then [] else 0x2E#8 :: fixPart x k) := by
  have hwidth : minutesWidth k = 2 + (if k = 0 then [] else 0x2E#8 :: fixPart x k : Text).length := by
    unfold minutesWidth
    split
    · rfl
    · rw [List.length_cons, fixPart_length]
      omega
  rw [fixw, fix_eq, signOf_of_nonneg hx, List.nil_append, hwidth, padZero_append]

/-- Rounding a number below n may give n itself, and no more: so minutes may print as 60, and nothing carries (R119). -/
theorem fixScaled_le_of_lt {x : Rat} (hx : 0 ≤ x) {n : Nat} (hlt : x < n) (k : Nat) :
    fixScaled x k ≤ n * 10 ^ k := by
  have hnear := (abs_le.mp (fixScaled_spec x k).1).2
  rw [abs_of_nonneg hx] at hnear
  have hpow : x * 10 ^ k < n * 10 ^ k := mul_lt_mul_of_pos_right hlt (by positivity)
  have hlt' : (fixScaled x k : Rat) < (n * 10 ^ k + 1 : Nat) := by push_cast; linarith
  exact Nat.lt_succ_iff.mp (by exact_mod_cast hlt')

theorem fixWhole_length_le {x : Rat} {k w : Nat} (h : fixScaled x k < 10 ^ (k + w)) (hw : 0 < w) :
    (fixWhole x k).length ≤ w := by
  have hstr := str_length_le h (by omega)
  rw [fixWhole_length, fixDigits, padZero_length]
  omega

/-- What `fix` prints for the minutes of `x`, in exact arithmetic. -/
def exactMinutes (x : Rat) : Rat := (|x| - ⌊|x|⌋) * 60

theorem exactMinutes_bounds (x : Rat) : 0 ≤ exactMinutes x ∧ exactMinutes x < 60 := by
  have hlow := Int.floor_le |x|
  have hhigh := Int.lt_floor_add_one |x|
  unfold exactMinutes
  exact ⟨by linarith, by linarith⟩

theorem posField_exact (k : Nat) (x : Rat) (dw : Nat) : posField .exact k x dw =
    padZero dw (str ⌊|x|⌋.toNat) ++ padZero 2 (fixWhole (exactMinutes x) k) ++
      (if k = 0 then [] else 0x2E#8 :: fixPart (exactMinutes x) k) := by
  have hfloor : ((⌊|x|⌋.toNat : Nat) : Int) = (qabs x).floor := by
    rw [Int.toNat_of_nonneg (Int.floor_nonneg.mpr (abs_nonneg x)), qabs_eq_abs]
    rfl
  have hmins : mulN .exact (subN .exact (qabs x) (qabs x).floor) 60 = exactMinutes x := by
    rw [qabs_eq_abs]
    rfl
  rw [posField, ← hfloor, zpad_natCast, hfloor, hmins, fixw_minutes (exactMinutes_bounds x).1, List.append_assoc]

/-! ### The satellite placeholders -/

theorem zpad_two_digits {n : Nat} (h : n < 100) : (zpad n 2).length = 2 ∧ (∀ c ∈ zpad n 2, isDigit c = true) ∧
    readDigits (zpad n 2) = n := by
  have hlen : (str n).length ≤ 2 := str_length_le h two_pos
  rw [zpad_natCast]
  exact ⟨by rw [padZero_length]; omega, padZero_str_isDigit 2 n, readDigits_padZero_str 2 n⟩

theorem prnFields_getElem? (n : Int) {i : Nat} (h : i < 12) :
    (prnFields n)[i]? = some (if (i : Int) < n then zpad (i + 1) 2 else []) := by
  rw [prnFields_eq, List.getElem?_map, List.getElem?_range h, Option.map_some]

/-! ### How many lines -/

/-- The three GPS sentences with a position, the one with a velocity, and the ten that are always there (R139). -/
theorem generate_length (p : Params) (a : Agg) (d : Rat) (now : HostTime) :
    (generate p a d now).length =
      10 + (if a.lat = 0 ∧ a.lon = 0 then 0 else 3) + (if a.gpsVel = 0 then 0 else 1) := by
  simp only [generate_eq, gpsOn_iff, vtgOn_iff, ne_eq]
  by_cases hpos : a.lat = 0 ∧ a.lon = 0 <;> by_cases hvel : a.gpsVel = 0 <;> simp [hpos, hvel]

/-! ### The obligations -/

/-- Settles O45: the line is its body between "$" and the first "*", and the body's codes stay below 128. -/
theorem lineChecksumIsSelfConsistent : Obligations.LineChecksumIsSelfConsistent := by
  intro p a d now l hl
  obtain ⟨body, hbody, rfl⟩ := generate_sentenceLine p a d now l hl
  obtain ⟨hi, lo, hhi, hlo, hhex⟩ := hex2_digits (nmeaCs body)
  rw [bodyOfLine_sentenceLine hbody]
  refine ⟨hbody, nmeaCs_le_of_bodyOk hbody, hi, lo, hhi, hlo, ?_⟩
  rw [sentenceLine, hhex, List.append_assoc]
  rfl

/-- Settles O46: the running exclusive-or from 0, bit by bit, and the digit table. -/
theorem checksumFunctionsComputeXorAndHexDigits : Obligations.ChecksumFunctionsComputeXorAndHexDigits := by
  refine ⟨fun body j _ => ?_, hex2_digits⟩
  rw [nmeaCs, foldl_xor_getLsbD, BitVec.getLsbD_zero, Bool.false_xor]

/-- Settles O47: each body's fields hold no comma, so splitting gives them back, and in EXACT they are the rules'. -/
theorem sentencesCarryTheFieldsOfTheirRules : Obligations.SentencesCarryTheFieldsOfTheirRules := by
  intro p a d now hp
  refine ⟨?_, rfl⟩
  simp (disch := decide) only [sentenceTable, List.map_cons, List.map_nil, bodyGGA_splitOn, bodyRMC_splitOn,
    bodyVTG_splitOn, bodyGSA_splitOn, bodyHDM, bodyHDT, bodyROT, valueBody_splitOn, bodyPitch, bodyRoll, bodyBaro,
    bodyTemp, bodyAccX, bodyAccY, bodyAccZ, bodyXDR_splitOn]
  simp only [latField, lonField, hp, fixValid_eq, ite_not, gpsOn_eq, timeField_eq, latHemi_eq, lonHemi_eq,
    knots_exact, kmh_exact, qabs_eq_abs, prnFields_eq, trueHeading_exact, magHeading_exact, rateOfTurn_exact,
    divN_exact]
  rfl

/-- Settles O57: whole degrees, then minutes of at most 60, in two digits and k decimals. -/
theorem positionFieldIsDegreesAndMinutes : Obligations.PositionFieldIsDegreesAndMinutes := by
  intro k x dw
  obtain ⟨hnonneg, hlt⟩ := exactMinutes_bounds x
  have hscaled := fixScaled_le_of_lt hnonneg (n := 60) (by exact_mod_cast hlt) k
  have hwhole : (fixWhole (exactMinutes x) k).length ≤ 2 := by
    apply fixWhole_length_le _ two_pos
    rw [pow_add]
    have hpos : 0 < 10 ^ k := by positivity
    omega
  have hprinted : readDigits (padZero 2 (fixWhole (exactMinutes x) k) ++ fixPart (exactMinutes x) k) =
      fixScaled (exactMinutes x) k := by
    rw [← padZero_append, readDigits_padZero, fixWhole_append_fixPart, fixDigits, readDigits_padZero_str]
  have hdigits : ∀ c ∈ fixWhole (exactMinutes x) k ++ fixPart (exactMinutes x) k, isDigit c = true := by
    rw [fixWhole_append_fixPart]
    exact padZero_str_isDigit _ _
  obtain ⟨hnear, htie⟩ := fixScaled_spec (exactMinutes x) k
  rw [abs_of_nonneg hnonneg] at hnear htie
  refine ⟨_, _, fixPart (exactMinutes x) k, posField_exact k x dw, ?_,
    List.ne_nil_of_length_pos (padZero_str_length_pos _ _), le_padZero_length _ _, padZero_str_head?_ne_zero, ?_,
    fixPart_length _ _, ?_, ?_⟩
  · rw [List.append_assoc, List.forall_mem_append, List.forall_mem_append]
    rw [List.forall_mem_append] at hdigits
    exact ⟨padZero_str_isDigit _ _, padZero_isDigit _ _ hdigits.1, hdigits.2⟩
  · rw [padZero_length]
    omega
  · rw [readDigits_padZero_str, Int.toNat_of_nonneg (Int.floor_nonneg.mpr (abs_nonneg x))]
  · rw [hprinted]
    exact ⟨hnear, htie, hscaled⟩

/-- Settles O58: the index against the satellite count, capped at twelve. -/
theorem placeholdersCountTheSatellites : Obligations.PlaceholdersCountTheSatellites := by
  intro n
  refine ⟨by rw [prnFields_eq, List.length_map, List.length_range], fun i hi => ⟨fun hlt => ?_, fun hge => ?_⟩⟩
  · obtain ⟨hlen, hdigit, hread⟩ := zpad_two_digits (n := i + 1) (by omega)
    rw [prnFields_getElem? n hi, if_pos (by omega)]
    exact ⟨_, rfl, hlen, hdigit, hread⟩
  · rw [prnFields_getElem? n hi, if_neg (by omega)]

/-- Settles O49, by the two conditions that can fail. -/
theorem generationHasTenToFourteenLines : Obligations.GenerationHasTenToFourteenLines :=
  generate_length

/-- Settles O50: neither of the two conditions holds. -/
theorem zeroPositionAndVelocitySuppressTheGpsLines : Obligations.ZeroPositionAndVelocitySuppressTheGpsLines := by
  intro p a d now hlat hlon hvel
  simp [generate_eq, gpsOn, vtgOn, hlat, hlon, hvel]

/-- Settles O51: position and velocity are still zero after any other frame, so ten lines are appended. -/
theorem firstFramesAfterResetGiveTenLines : Obligations.FirstFramesAfterResetGiveTenLines := by
  intro i s hzero hlonlat hgpsv
  obtain ⟨a, ts, hexec⟩ := exec_accepts i s
  obtain ⟨-, -, -, -, -, hposition, hvelocity, -⟩ := framesLeaveOtherFieldsAlone i s _ hexec
  obtain ⟨hlon, hlat⟩ := hposition hlonlat
  obtain ⟨-, hvel, -⟩ := hvelocity hgpsv
  have hlat0 : a.lat = 0 := hlat.trans (congrArg Agg.lat hzero)
  have hlon0 : a.lon = 0 := hlon.trans (congrArg Agg.lon hzero)
  have hvel0 : a.gpsVel = 0 := hvel.trans (congrArg Agg.gpsVel hzero)
  refine ⟨_, hexec, ?_⟩
  rw [State.accept_out, List.length_append, generate_length]
  simp only [hlat0, hlon0, hvel0, and_self, if_true]

/-- Settles O33: no sentence names one of these fields, and the three frame types write no other. -/
theorem unprintedFieldsReachNoSentence : Obligations.UnprintedFieldsReachNoSentence := by
  refine ⟨fun _ _ _ _ _ => rfl, fun i s t hi h => ?_⟩
  rcases hi with ⟨a, b, c, d, rfl⟩ | ⟨a, b, c, d, rfl⟩ | ⟨a, b, c, d, rfl⟩ <;> (cases h; rfl)

/-- Settles O59, by running the generator on this one aggregate. -/
theorem endAggregateOfFullCycleGivesItsFourteenLines :
    Obligations.EndAggregateOfFullCycleGivesItsFourteenLines := by
  unfold Obligations.EndAggregateOfFullCycleGivesItsFourteenLines
  decide +kernel

end Sys2Proof.Machine
end
